-- ==== Sys2Proof/Word.lean ====
section
/-! DEFINITION. The words of the OC2 save-codec engine: bytes, 32-bit words, byte strings and offsets in the host aperture
(spec/00_scope.md R8 to R10, spec/20_memory.md R41). Bit 0 is the least significant bit; nothing is signed. -/

namespace Sys2Proof

/-- A byte, "8 bits, an unsigned value 0..255" (R8). -/
abbrev Byte := BitVec 8

/-- A `u32` (R8): the contents of every register of the page (10_state.md R21). -/
abbrev Word := BitVec 32

/-- A byte string; byte 0 is the head (R10). -/
abbrev Bytes := List Byte

/-- A byte offset from `REG_BASE` in the 32 MiB host aperture (20_memory.md R41): exactly 25 bits. -/
abbrev Offset := BitVec 25

end Sys2Proof
end

