-- ==== Sys2Proof/Machine/Bytes.lean ====
section
/-! DEFINITION. The byte-string functions of spec/00_scope.md R10 and the byte orders of R10 and spec/45_primitives.md R115. -/

namespace Sys2Proof.Machine

/-- `rep(n, v)` (R10). -/
def rep (n : Nat) (v : Byte) : Bytes := List.replicate n v

/-- `b[i]`, and 0 past the end (never used there). -/
def byteAt (b : Bytes) (i : Nat) : Byte := b.getD i 0

/-- `LE32(v)` = `v[7:0], v[15:8], v[23:16], v[31:24]` (R10). -/
def le32 (v : Word) : Bytes :=
  [v.extractLsb' 0 8, v.extractLsb' 8 8, v.extractLsb' 16 8, v.extractLsb' 24 8]

/-- `fromLE32(b)` for a 4-byte `b` (R10): byte 0 in bits [7:0]. -/
def fromLE32 (b : Bytes) : Word := byteAt b 3 ++ byteAt b 2 ++ byteAt b 1 ++ byteAt b 0

/-- `BE32(v)`, most significant byte first (45_primitives.md R115). -/
def be32 (v : Word) : Bytes :=
  [v.extractLsb' 24 8, v.extractLsb' 16 8, v.extractLsb' 8 8, v.extractLsb' 0 8]

/-- The word whose `BE32` is the 4-byte `b` (45_primitives.md R115). -/
def fromBE32 (b : Bytes) : Word := byteAt b 0 ++ byteAt b 1 ++ byteAt b 2 ++ byteAt b 3

/-- `BE64(n)` (45_primitives.md R115). -/
def be64 (n : Nat) : Bytes := be32 (BitVec.ofNat 32 (n / 2 ^ 32)) ++ be32 (BitVec.ofNat 32 n)

/-- The sixteen bytes of a block, byte 0 in the top bits. -/
def bytesOf128 (v : BitVec 128) : Bytes :=
  (List.range 16).map fun i => v.extractLsb' (8 * (15 - i)) 8

/-- Bytewise XOR (42_cipher.md R91). -/
def xorBytes (a b : Bytes) : Bytes := List.zipWith (· ^^^ ·) a b

/-- The first `k` pieces of `n` bytes each. -/
def chunks (n : Nat) : Nat → Bytes → List Bytes
  | 0, _ => []
  | k + 1, b => b.take n :: chunks n k (b.drop n)

/-- Decimal digits of `n` put in front of `acc`, most significant first, with `fuel` digits at most. -/
def asciiDecFrom : Nat → Nat → Bytes → Bytes
  | 0, _, acc => acc
  | fuel + 1, n, acc =>
    let acc' := BitVec.ofNat 8 (0x30 + n % 10) :: acc
    if n < 10 then acc' else asciiDecFrom fuel (n / 10) acc'

/-- `ascii_dec(n)` (R10; D8): the shortest decimal representation, digit `d` as byte `0x30 + d`. -/
def asciiDec (n : Nat) : Bytes := asciiDecFrom (n + 1) n []

end Sys2Proof.Machine
end

