-- ==== Sys2Proof/Config.lean ====
section
/-! DEFINITION. What the spec leaves OPEN, as constants without a value (spec/00_scope.md R7; 93_implementation_defined.md part 1).
An `opaque` constant here has no body: nothing in Lean can evaluate it, so a claim holds for every value it may have.
The other parameters of R7 are fixed or DECIDED and stand where they are used; `BUF_SIZE` is a field of State (CAPS). -/

namespace Sys2Proof.Config

/-- Which of the 2^32 - 1 allowed generators the block was built with. -/
opaque crcPolyIndex : Fin 0xFFFFFFFF

/-- Which of the 2^32 - 2 allowed seeds the block was built with. -/
opaque crcSeedIndex : Fin 0xFFFFFFFE

/-- `G` = `CRC_POLY_G` (40_checksum.md R68; U1): any word but 0xEDB88320. The index counts the allowed words in rising order. -/
def crcPolyG : Word :=
  BitVec.ofNat 32 (if crcPolyIndex.val < 0xEDB88320 then crcPolyIndex.val else crcPolyIndex.val + 1)

/-- `S` = `CRC_SEED_S` (40_checksum.md R68; U2): any word but 0x00000000 and 0xFFFFFFFF. -/
def crcSeedS : Word := BitVec.ofNat 32 (crcSeedIndex.val + 1)

/-- `FIXED_SALT`, the decoded bytes in the fixed-salt ROM (10_state.md R38; U3); its length is `FIXED_SALT_LEN`. -/
opaque fixedSalt : Bytes

/-- The twelve bytes `7B 22 67 6F 6C 64 22 3A 31 30 30 7D` of the source's example plaintext (43_container.md R99). -/
def goldExample : Bytes :=
  [0x7B, 0x22, 0x67, 0x6F, 0x6C, 0x64, 0x22, 0x3A, 0x31, 0x30, 0x30, 0x7D]

/-- The validator's verdict on every byte string but the one the source gives. -/
opaque structuredOther : Bytes → Bool

/-- `StructuredValid(b)` (43_container.md R99; U5, D34): a total, deterministic predicate of the bytes alone, of which one
thing is known: the source's example plaintext is valid. Any such predicate is `structuredValid` for some `structuredOther`. -/
def structuredValid (b : Bytes) : Bool := b == goldExample || structuredOther b

/-- The `k`-th draw of the random source, 16 bytes, byte 0 in the top bits (00_scope.md R13, `draw16()`; U8, D13): a free value
for every `k`. Log 6. -/
opaque draw16 : Nat → BitVec 128

/-- What BUF byte `a` holds after the `e`-th hardware reset while nothing has written it (10_state.md R40; U10): a free value. Log 4. -/
opaque bufPowerUp : Nat → Nat → Byte

/-- Byte `a` of the `k`-th `unspecified` event (00_scope.md R13; U11, U12): a free value. Log 5. -/
opaque unspecifiedByte : Nat → Nat → Byte

/-- What the host reads at the `k`-th `unspecified` event (20_memory.md R47; U13): a free value. Log 5. -/
opaque unspecifiedWord : Nat → Word

/-- Which multiple of 0x0200_0000 the platform gave the block. -/
opaque regBaseIndex : Nat

/-- `REG_BASE` (20_memory.md R41; U23): OPEN, "must be a multiple of 0x0200_0000". Nothing in the block reads it. Log 12. -/
def regBase : Nat := 0x02000000 * regBaseIndex

/-- `IRQ_LINE` (60_exceptions.md R124; U23): which line of the platform's interrupt controller the IRQ output drives. OPEN;
nothing in the block reads it. Log 12. -/
opaque irqLine : Nat

end Sys2Proof.Config
end

