-- ==== Sys2Proof/Syntax.lean ====
section
/-! DEFINITION. The syntax of the engine: the twelve commands (spec/30_encoding.md R59, spec/opcode_table.json), the registers
of the page by name (spec/10_state.md R21), and what the host can do to the block (spec/20_memory.md R43, spec/70_reset_and_hazards.md R133). -/

namespace Sys2Proof

/-- CMD.SALT_SEL of KDF_BUF and KDF_KEY (30_encoding.md R57): where the salt comes from. -/
inductive SaltSel where
  /-- SALT_SEL = 0: the AUX region of BUF. -/
  | auxRegion
  /-- SALT_SEL = 1: the fixed-salt ROM. -/
  | fixedSalt
  deriving DecidableEq, Repr

/-- CMD.STRICT of UNPAD and DECODE (30_encoding.md R57): how padding is removed. -/
inductive PadMode where
  /-- STRICT = 0: lenient unpad, the source's default. -/
  | lenient
  /-- STRICT = 1: strict PKCS7 check. -/
  | strict
  deriving DecidableEq, Repr

/-- The command set: one constructor per row of spec/opcode_table.json. Every other operand is in the operand registers (R58). -/
inductive Instr where
  /-- 0x01 CRC_COMPUTE (40_checksum.md R74). -/
  | crcCompute
  /-- 0x02 CRC_UPDATE (40_checksum.md R75). -/
  | crcUpdate
  /-- 0x03 CRC_VERIFY (40_checksum.md R76). -/
  | crcVerify
  /-- 0x04 CRC_APPEND (40_checksum.md R77). -/
  | crcAppend
  /-- 0x10 KDF_BUF (41_kdf.md R84). -/
  | kdfBuf (salt : SaltSel)
  /-- 0x11 KDF_KEY (41_kdf.md R85). -/
  | kdfKey (salt : SaltSel)
  /-- 0x20 CBC_ENC (42_cipher.md R94). -/
  | cbcEnc
  /-- 0x21 CBC_DEC (42_cipher.md R95). -/
  | cbcDec
  /-- 0x22 PAD (42_cipher.md R96). -/
  | pad
  /-- 0x23 UNPAD (42_cipher.md R97). -/
  | unpad (mode : PadMode)
  /-- 0x30 DECODE (43_container.md R100). -/
  | decode (mode : PadMode)
  /-- 0x31 ENCODE (43_container.md R101). -/
  | encode
  deriving DecidableEq, Repr

/-- The registers of the page, by name (10_state.md R21). -/
inductive RegName where
  | id | caps | ctrl | cmd | status
  | srcAddr | srcLen | dstAddr | auxAddr | auxLen | outLen | dstLen
  | kdfIter | keyLen | crcValue
  | key (i : Fin 8)
  | iv (i : Fin 4)
  deriving DecidableEq, Repr

/-- The width of a host access (20_memory.md R43): 1, 2 or 4 bytes. -/
inductive Width where
  | byte | half | word
  deriving DecidableEq, Repr

/-- The width in bytes (20_memory.md R43). -/
def Width.bytes : Width → Nat
  | .byte => 1
  | .half => 2
  | .word => 4

/-- What can happen to the block from outside, and the engine's turn: the elements of State's input list (log 1). -/
inductive HostInput where
  /-- `BusRead(off, w)` (20_memory.md R43). -/
  | read (off : Offset) (w : Width)
  /-- `BusWrite(off, w, v)` (20_memory.md R43); for a width under 4 the low bytes of `v` are the value. -/
  | write (off : Offset) (w : Width) (v : Word)
  /-- The host does nothing while the engine moves: a running command completes (70_reset_and_hazards.md R139). -/
  | engineTurn
  /-- `rst_n` is asserted (70_reset_and_hazards.md R134). -/
  | assertReset
  /-- `rst_n` is released (70_reset_and_hazards.md R134). -/
  | releaseReset
  deriving DecidableEq, Repr

end Sys2Proof
end

