-- ==== Sys2Proof/Machine/State.lean ====
section
/-! DEFINITION. The state of the engine: every piece of state of spec/10_state.md and spec/70_reset_and_hazards.md, as plain
data, its value after reset (R40, R136), and the reasons a step can stop. INVENTORY.md lists each field with its rule. -/

namespace Sys2Proof.Machine

/-- `ENG` (10_state.md R18), visible as STATUS.BUSY (R25). -/
inductive Eng where
  | idle | busy
  deriving DecidableEq, Repr

/-- The values of STATUS.ERRCODE (60_exceptions.md R117). The codes 0xB to 0xF are never produced (U20), so they have no name. -/
inductive ErrCode where
  | none | malformedContainer | decryptionFailed | invalidPlaintext | invalidParameter | illegalCmd
  | badRange | badLength | badKeyLen | overlap | badPadding
  deriving DecidableEq, Repr

/-- Byte memory as data: (offset, byte) pairs with offsets strictly rising (`Memory.wf`). -/
abbrev Memory := List Host.Cell

/-- BUF (10_state.md R36): the cells that have been written, as (offset, byte) pairs with offsets strictly rising, and the number
of the hardware reset that last made every byte `unspecified` (R40). An offset without a cell reads as a free value (log 4). -/
structure Buf where
  cells : Memory
  epoch : Nat
  deriving DecidableEq, Repr

/-- The operand registers that a command reads (10_state.md R19, R26, R28 to R32). They stand twice in State: live, and in the
snapshot taken at acceptance. -/
structure OperandRegs where
  srcAddr : Word
  srcLen : Word
  dstAddr : Word
  auxAddr : Word
  auxLen : Word
  outLen : Word
  kdfIter : Word
  keyLen : Word
  crcValue : Word
  key : Vector Word 8
  iv : Vector Word 4
  deriving DecidableEq, Repr

/-- The snapshot of 10_state.md R19: every operand register and BUF at acceptance. "The command's rule reads only the snapshot." -/
structure Snapshot where
  regs : OperandRegs
  buf : Buf
  deriving DecidableEq, Repr

/-- What the host port answered to the last access (20_memory.md R43, R44). -/
inductive BusResponse where
  /-- No access has been answered since reset. -/
  | none
  /-- A read returned `v`, zero-extended to the port's 32 bits. -/
  | data (v : Word)
  /-- A write completed. -/
  | written
  /-- The bus error of R44: a fault of the host's access; no state of the block changed. -/
  | busError
  deriving DecidableEq, Repr

/-- The whole machine. -/
structure State where
  /-- CAPS.BUF_LOG2 - 12 (10_state.md R23, R36): a constant of the block, 12 to 24 by construction; no input changes it. -/
  bufSel : Fin 13
  /-- CTRL.IRQ_EN (R24). -/
  irqEn : Bool
  /-- CMD, the last accepted command word (R21). -/
  cmd : Word
  /-- ENG (R18); STATUS.BUSY is 1 exactly when it is `busy` (R25). -/
  eng : Eng
  /-- STATUS.DONE (R25). -/
  done : Bool
  /-- STATUS.CHK_WARN (R25). -/
  chkWarn : Bool
  /-- STATUS.OVERRUN (R25). -/
  overrun : Bool
  /-- STATUS.ACCESS_ERR (R25). -/
  accessErr : Bool
  /-- STATUS.ERRCODE (R25); STATUS.ERR is 1 exactly when it is not `none`. -/
  errCode : ErrCode
  /-- The live operand registers, KEY and IV files (R26, R28 to R32). -/
  regs : OperandRegs
  /-- DST_LEN (R27). -/
  dstLen : Word
  /-- BUF (R36). -/
  buf : Buf
  /-- CMDL, the latched command word (R19). -/
  cmdl : Word
  /-- The snapshot (R19). -/
  snap : Snapshot
  /-- `rst_n` is asserted (70 R133, R134). -/
  inReset : Bool
  /-- The host port's answer to the last access. -/
  resp : BusResponse
  /-- The MODEL's field: what the outside world does next (log 1). -/
  inputs : List HostInput
  /-- The MODEL's field: how many draws the random source has given (log 6). -/
  ivDraws : Nat
  /-- The MODEL's field: how many `unspecified` events there have been (log 5). -/
  unspecCount : Nat
  deriving DecidableEq, Repr

/-- Why the machine stops with a fault. -/
inductive Fault where
  /-- Raised by the host port when the host reads or writes while `rst_n` is asserted: "Host accesses during reset get no
  response the model can rely on" (70 R134; 93 U16 `stuck`). Safe: the model stops where the hardware may answer anything. -/
  | accessDuringReset
  deriving DecidableEq, Repr

/-- Why the machine refuses an instruction. -/
inductive Refusal where
  /-- Raised by `exec` for an instruction that has no meaning yet. Safe: the model stops. No arm answers it in this model. -/
  | notModelled (mnemonic : String)
  deriving DecidableEq, Repr

/-- The operand registers after either reset (10_state.md R21; 70 R136). -/
def resetRegs : OperandRegs where
  srcAddr := 0
  srcLen := 0
  dstAddr := 0
  auxAddr := 0
  auxLen := 0
  outLen := 0
  kdfIter := 2
  keyLen := 32
  crcValue := Config.crcSeedS
  key := #v[0, 0, 0, 0, 0, 0, 0, 0]
  iv := #v[0, 0, 0, 0]

/-- The machine right after a hardware reset, `rst_n` released again (10_state.md R40; 70 R134, R136). CMDL and the snapshot have
no reset value in the spec (log 17); `resp` and the model's own fields start empty (log 1, 4, 5, 6, 18). -/
def State.reset : State where
  bufSel := 8
  irqEn := false
  cmd := 0
  eng := .idle
  done := false
  chkWarn := false
  overrun := false
  accessErr := false
  errCode := .none
  regs := resetRegs
  dstLen := 0
  buf := ⟨[], 0⟩
  cmdl := 0
  snap := ⟨resetRegs, ⟨[], 0⟩⟩
  inReset := false
  resp := .none
  inputs := []
  ivDraws := 0
  unspecCount := 0

end Sys2Proof.Machine
end

