-- ==== Sys2Proof/Machine/Ops.lean ====
section
/-! DEFINITION. The named operations over memory and registers: BUF bytes and regions (spec/20_memory.md R48 to R51), the
single-field writes of a command, the completion of a command with and without an error (spec/60_exceptions.md R120, R121:
this hardware's exception entry), the acceptance of a command word (spec/30_encoding.md R61) and the two resets
(spec/70_reset_and_hazards.md R134, R135). -/

namespace Sys2Proof.Machine

/-! ### Memory -/

/-- The byte listed at an offset, if one is. -/
def Memory.get? : Memory → Nat → Option Byte
  | [], _ => none
  | (k, b) :: m, a => if a = k then some b else Memory.get? m a

/-- List byte `b` at offset `a`, keeping the offsets strictly rising. -/
def Memory.set : Memory → Nat → Byte → Memory
  | [], a, b => [(a, b)]
  | (k, c) :: m, a, b =>
    if a < k then (a, b) :: (k, c) :: m
    else if a = k then (a, b) :: m
    else (k, c) :: Memory.set m a b

/-- The canonical form: offsets strictly rising, so one entry per offset. No entry equals what an unlisted offset reads as,
because an unlisted offset holds no written value (log 4). -/
def Memory.wf (m : Memory) : Bool := decide (m.Pairwise fun x y => x.1 < y.1)

/-- Every listed offset lies below `n`. -/
def Memory.below (n : Nat) (m : Memory) : Bool := m.all fun c => decide (c.1 < n)

/-- BUF byte `a`: what was last written there, or the free value of the last hardware reset (R40, log 4). -/
def bufByte (b : Buf) (a : Nat) : Byte := (Memory.get? b.cells a).getD (Config.bufPowerUp b.epoch a)

/-- `n` bytes of BUF from `a`. -/
def bufRead (b : Buf) (a n : Nat) : Bytes := (List.range n).map fun i => bufByte b (a + i)

/-- Store one byte. -/
def bufSet (b : Buf) (a : Nat) (v : Byte) : Buf := { b with cells := Memory.set b.cells a v }

/-- Store a byte string from `a` on, byte 0 at the lowest offset (R45). -/
def bufWrite (b : Buf) (a : Nat) : Bytes → Buf
  | [] => b
  | v :: vs => bufWrite (bufSet b a v) (a + 1) vs

/-- `BUF_SIZE` (R36): a power of two from 2^12 to 2^24. -/
def bufSize (s : State) : Nat := 2 ^ (s.bufSel.val + 12)

/-- A region of BUF (00_scope.md R16): offset and length, unbounded integers (R8). -/
structure Region where
  addr : Nat
  len : Nat
  deriving DecidableEq, Repr

/-- `in_range(a, n)` (20_memory.md R49, 40_checksum.md R78): `a + n <= BUF_SIZE` without wrap-around. -/
abbrev InRange (s : State) (r : Region) : Prop := r.addr + r.len ≤ bufSize s

/-- `partial_overlap(r1, r2)` (20_memory.md R50, 40_checksum.md R78). -/
abbrev PartialOverlap (r1 r2 : Region) : Prop :=
  0 < r1.len ∧ 0 < r2.len ∧ r1.addr < r2.addr + r2.len ∧ r2.addr < r1.addr + r1.len ∧ r1.addr ≠ r2.addr

/-- An offset of a region. -/
abbrev Region.has (r : Region) (a : Nat) : Prop := r.addr ≤ a ∧ a < r.addr + r.len

/-- `MemRead(a, n)` (00_scope.md R12): the command's read, from the snapshot (10_state.md R19). -/
def memRead (s : State) (r : Region) : Bytes := bufRead s.snap.buf r.addr r.len

/-- `MemWrite(a, n, v)` with `n = len(v)` (00_scope.md R12): the command's write, to the live BUF. -/
def State.memWrite (s : State) (a : Nat) (v : Bytes) : State := { s with buf := bufWrite s.buf a v }

/-- The bytes `unspecified` stands for at event `k` (00_scope.md R13, log 5). -/
def unspecifiedBytes (k n : Nat) : Bytes := (List.range n).map fun i => Config.unspecifiedByte k i

/-- `MemWrite(a, n, unspecified)` (43_container.md R100; 70 R135): fresh free values, one event. -/
def State.memForget (s : State) (r : Region) : State :=
  { s with
    buf := bufWrite s.buf r.addr (unspecifiedBytes s.unspecCount r.len)
    unspecCount := s.unspecCount + 1 }

/-! ### The registers a command writes (30_encoding.md R60) -/

/-- `x[CRC_VALUE] <- v`. -/
def State.setCrc (s : State) (v : Word) : State := { s with regs := { s.regs with crcValue := v } }

/-- `x[DST_LEN] <- n`. -/
def State.setDstLen (s : State) (n : Nat) : State := { s with dstLen := BitVec.ofNat 32 n }

/-- `if mismatch: STATUS.CHK_WARN <- 1`. -/
def State.warnIf (s : State) (mismatch : Bool) : State := { s with chkWarn := s.chkWarn || mismatch }

/-- Write the key file (10_state.md R31). -/
def State.setKey (s : State) (k : Vector Word 8) : State := { s with regs := { s.regs with key := k } }

/-- Write the IV file (10_state.md R32). -/
def State.setIv (s : State) (v : Vector Word 4) : State := { s with regs := { s.regs with iv := v } }

/-- `draw16()` has been taken (00_scope.md R13): the next draw is another one. -/
def State.drawTaken (s : State) : State := { s with ivDraws := s.ivDraws + 1 }

/-- The value of the next `draw16()` (00_scope.md R13). -/
def nextDraw (s : State) : Bytes := bytesOf128 (Config.draw16 s.ivDraws)

/-! ### Completion: the one way a command ends (60_exceptions.md R120) -/

/-- The last step of every command: ENG <- IDLE, STATUS.BUSY <- 0, STATUS.DONE <- 1, with the error code given. -/
def State.complete (s : State) (e : ErrCode) : State := { s with errCode := e, eng := .idle, done := true }

/-- `finish()` (R120): the command ends with no error. -/
def finish (s : State) : State := s.complete .none

/-- `raise E` (R120, R121): the command ends at once with ERRCODE = `E` and DST_LEN = 0; the writes before it stay. -/
def raise (e : ErrCode) (s : State) : State := (s.setDstLen 0).complete e

/-! ### Acceptance and reset -/

/-- The snapshot a command would be given now (10_state.md R19). -/
def takeSnapshot (s : State) : Snapshot := ⟨s.regs, s.buf⟩

/-- Acceptance of word `v` (30_encoding.md R61). OVERRUN and ACCESS_ERR are unchanged. -/
def State.accept (s : State) (v : Word) : State :=
  { s with
    cmd := v
    cmdl := v
    done := false
    chkWarn := false
    errCode := .none
    dstLen := 0
    snap := takeSnapshot s
    eng := .busy }

/-- Every register at its reset value and ENG = IDLE (10_state.md R21; 70 R136); BUF, the port and the model's own fields kept. -/
def State.resetRegisters (s : State) : State :=
  { State.reset with
    bufSel := s.bufSel
    buf := s.buf
    inReset := s.inReset
    resp := s.resp
    inputs := s.inputs
    ivDraws := s.ivDraws
    unspecCount := s.unspecCount }

/-- Hardware reset, `rst_n` asserted (70 R134): the running command is abandoned, every register takes its reset value and every
BUF byte becomes `unspecified`: a new set of free values. -/
def hardReset (s : State) : State :=
  { s.resetRegisters with
    buf := ⟨[], s.buf.epoch + 1⟩
    inReset := true
    resp := .none }

end Sys2Proof.Machine
end

