-- ==== Sys2Proof/Machine/Flags.lean ====
section
/-! DEFINITION. The flags of the block are the STATUS bits (spec/10_state.md R25, R35): the codes of ERRCODE
(spec/60_exceptions.md R117), the STATUS word, its W1C write, CTRL, and the interrupt output (R124). -/

namespace Sys2Proof.Machine

/-- The code of an error in STATUS.ERRCODE (60_exceptions.md R117). -/
def errBits : ErrCode → BitVec 4
  | .none => 0x0
  | .malformedContainer => 0x1
  | .decryptionFailed => 0x2
  | .invalidPlaintext => 0x3
  | .invalidParameter => 0x4
  | .illegalCmd => 0x5
  | .badRange => 0x6
  | .badLength => 0x7
  | .badKeyLen => 0x8
  | .overlap => 0x9
  | .badPadding => 0xA

/-- STATUS.BUSY (R25): "1 exactly when `ENG` = BUSY". -/
def busyBit (s : State) : Bool := s.eng == .busy

/-- STATUS.ERR (R25): "equals 1 exactly when ERRCODE is not 0". -/
def errBit (s : State) : Bool := errBits s.errCode != 0

/-- The STATUS word (R25): [31:12] zero, [11:8] ERRCODE, [7:6] zero, ACCESS_ERR, OVERRUN, CHK_WARN, ERR, DONE, BUSY. -/
def statusWord (s : State) : Word :=
  0#20 ++ errBits s.errCode ++ 0#2 ++ BitVec.ofBool s.accessErr ++ BitVec.ofBool s.overrun
    ++ BitVec.ofBool s.chkWarn ++ BitVec.ofBool (errBit s) ++ BitVec.ofBool s.done ++ BitVec.ofBool (busyBit s)

/-- A host write of `v` to STATUS (R25): DONE, CHK_WARN, OVERRUN and ACCESS_ERR are W1C; every other bit is ignored. -/
def State.writeStatus (s : State) (v : Word) : State :=
  { s with
    done := s.done && !v.getLsbD 1
    chkWarn := s.chkWarn && !v.getLsbD 3
    overrun := s.overrun && !v.getLsbD 4
    accessErr := s.accessErr && !v.getLsbD 5 }

/-- The CTRL word (R24): IRQ_EN in bit 0; SOFT_RESET and the reserved bits read 0. -/
def ctrlWord (s : State) : Word := (BitVec.ofBool s.irqEn).setWidth 32

/-- The interrupt output (60_exceptions.md R124): `IRQ = CTRL.IRQ_EN AND STATUS.DONE`, at every instant. -/
def irq (s : State) : Bool := s.irqEn && s.done

end Sys2Proof.Machine
end

