-- ==== Sys2Proof/WellFormed.lean ====
section
/-! DEFINITION. What is well formed: CMD words (spec/30_encoding.md R59, R64) and host accesses (spec/20_memory.md R43).
A term of `Instr` needs no check of its own: its operands are `SaltSel` and `PadMode`, which have exactly the values R59 admits.
These predicates are written from the spec's own lists, apart from the decoder and from the bus, so that a statement can
hold the two against each other. -/

namespace Sys2Proof

/-- "The CMD words" of R59, as that rule lists them. -/
def legalWords : List Word :=
  [0x00000001, 0x00000002, 0x00000003, 0x00000004,
   0x00000010, 0x00000110, 0x00000011, 0x00000111,
   0x00000020, 0x00000021, 0x00000022,
   0x00000023, 0x00000223,
   0x00000030, 0x00000230, 0x00000031]

/-- A CMD word is well formed when R59 lists it; "every CMD word not selected by rule R59 is illegal" (R64). -/
def wordWellFormed (v : Word) : Bool := legalWords.contains v

/-- R43's natural alignment: `off` is a multiple of `w`. -/
def accessAligned (off : Offset) (w : Width) : Bool := off.toNat % w.bytes == 0

/-- R43: "In the register page only `w` = 4 is allowed." -/
def accessWidthAllowed (off : Offset) (w : Width) : Bool :=
  !decide (off.toNat < 0x1000) || w == .word

/-- A host access that R43 allows; R44 answers every other one with a bus error. -/
def accessWellFormed (off : Offset) (w : Width) : Bool :=
  accessAligned off w && accessWidthAllowed off w

/-- A host input is well formed when its access, if it is one, is allowed. -/
def inputWellFormed : HostInput → Bool
  | .read off w => accessWellFormed off w
  | .write off w _ => accessWellFormed off w
  | .engineTurn => true
  | .assertReset => true
  | .releaseReset => true

end Sys2Proof
end

