-- ==== Sys2Proof/Decode.lean ====
section
/-! DEFINITION. Decoding of an accepted CMD word, total on every 32-bit value (spec/30_encoding.md R57, R59, R63), and the
encoder written from the same table. A word that is not a command is rejected by the name of the first check of R63 it fails. -/

namespace Sys2Proof

/-- The twelve OPCODE values of R59. -/
inductive Opcode where
  | crcCompute | crcUpdate | crcVerify | crcAppend
  | kdfBuf | kdfKey
  | cbcEnc | cbcDec | pad | unpad
  | decode | encode
  deriving DecidableEq, Repr

/-- OPCODE[7:0] of each command (R59). -/
def opcodeByte : Opcode → Byte
  | .crcCompute => 0x01
  | .crcUpdate => 0x02
  | .crcVerify => 0x03
  | .crcAppend => 0x04
  | .kdfBuf => 0x10
  | .kdfKey => 0x11
  | .cbcEnc => 0x20
  | .cbcDec => 0x21
  | .pad => 0x22
  | .unpad => 0x23
  | .decode => 0x30
  | .encode => 0x31

/-- Every opcode of R59, in the table's order. -/
def allOpcodes : List Opcode :=
  [.crcCompute, .crcUpdate, .crcVerify, .crcAppend, .kdfBuf, .kdfKey, .cbcEnc, .cbcDec, .pad, .unpad, .decode, .encode]

/-- The opcode a byte selects (R59); none for the undefined values of R64. -/
def opcodeOfByte (b : Byte) : Option Opcode := allOpcodes.find? fun op => opcodeByte op == b

/-- SALT_SEL may be 1 for KDF_BUF and KDF_KEY only (R57). -/
def takesSaltSel : Opcode → Bool
  | .kdfBuf => true
  | .kdfKey => true
  | _ => false

/-- STRICT may be 1 for UNPAD and DECODE only (R57). -/
def takesStrict : Opcode → Bool
  | .unpad => true
  | .decode => true
  | _ => false

/-- SALT_SEL = v[8] (R63). -/
def saltSelOfBit : Bool → SaltSel
  | false => .auxRegion
  | true => .fixedSalt

/-- STRICT = v[9] (R63). -/
def padModeOfBit : Bool → PadMode
  | false => .lenient
  | true => .strict

/-- The command of an opcode with its two option bits (R63's last line). -/
def buildInstr (op : Opcode) (saltSel strict : Bool) : Instr :=
  match op with
  | .crcCompute => .crcCompute
  | .crcUpdate => .crcUpdate
  | .crcVerify => .crcVerify
  | .crcAppend => .crcAppend
  | .kdfBuf => .kdfBuf (saltSelOfBit saltSel)
  | .kdfKey => .kdfKey (saltSelOfBit saltSel)
  | .cbcEnc => .cbcEnc
  | .cbcDec => .cbcDec
  | .pad => .pad
  | .unpad => .unpad (padModeOfBit strict)
  | .decode => .decode (padModeOfBit strict)
  | .encode => .encode

/-- Why a CMD word is no command (R63, R64): one name per check. All of them are reported as ILLEGAL_CMD. -/
inductive DecodeReject where
  /-- OPCODE is none of the twelve values. -/
  | undefinedOpcode
  /-- A bit of [31:10] is set. -/
  | reservedBits
  /-- SALT_SEL = 1 with an opcode other than KDF_BUF and KDF_KEY. -/
  | saltSelNotAllowed
  /-- STRICT = 1 with an opcode other than UNPAD and DECODE. -/
  | strictNotAllowed
  deriving DecidableEq, Repr

/-- OPCODE, bits [7:0] (R57). -/
def opcodeField (v : Word) : Byte := v.extractLsb' 0 8

/-- SALT_SEL, bit [8] (R57). -/
def saltSelBit (v : Word) : Bool := v.getLsbD 8

/-- STRICT, bit [9] (R57). -/
def strictBit (v : Word) : Bool := v.getLsbD 9

/-- The reserved field, bits [31:10] (R57). -/
def reservedField (v : Word) : BitVec 22 := v.extractLsb' 10 22

/-- Decoding of an accepted word, in the order of R63. -/
def decode (v : Word) : Except DecodeReject Instr :=
  match opcodeOfByte (opcodeField v) with
  | none => .error .undefinedOpcode
  | some op =>
    if reservedField v ≠ 0 then .error .reservedBits
    else if saltSelBit v && !takesSaltSel op then .error .saltSelNotAllowed
    else if strictBit v && !takesStrict op then .error .strictNotAllowed
    else .ok (buildInstr op (saltSelBit v) (strictBit v))

/-- The opcode of a command (R59). -/
def opcodeOf : Instr → Opcode
  | .crcCompute => .crcCompute
  | .crcUpdate => .crcUpdate
  | .crcVerify => .crcVerify
  | .crcAppend => .crcAppend
  | .kdfBuf _ => .kdfBuf
  | .kdfKey _ => .kdfKey
  | .cbcEnc => .cbcEnc
  | .cbcDec => .cbcDec
  | .pad => .pad
  | .unpad _ => .unpad
  | .decode _ => .decode
  | .encode => .encode

/-- The SALT_SEL bit of a command (R59). -/
def saltBitOf : Instr → Bool
  | .kdfBuf .fixedSalt => true
  | .kdfKey .fixedSalt => true
  | _ => false

/-- The STRICT bit of a command (R59). -/
def strictBitOf : Instr → Bool
  | .unpad .strict => true
  | .decode .strict => true
  | _ => false

/-- The CMD word of a command (R57, R59): reserved zero, STRICT, SALT_SEL, OPCODE. -/
def encode (i : Instr) : Word :=
  0#22 ++ BitVec.ofBool (strictBitOf i) ++ BitVec.ofBool (saltBitOf i) ++ opcodeByte (opcodeOf i)

/-- What the decoder reads from a table word of `nbits` bits; a bit above the one 32-bit CMD word makes it no command (R65). -/
def decodeTableWord (nbits w : Nat) : Option Instr :=
  let v := w % 2 ^ nbits
  if v < 2 ^ 32 then (decode (BitVec.ofNat 32 v)).toOption else none

end Sys2Proof
end

