-- ==== Sys2Proof/Machine/Operands.lean ====
section
/-! DEFINITION. Operand assembly (spec/30_encoding.md R58): the regions, the key, the IV and the salt a command takes from the
snapshot of the operand registers, and the destination region of every command (spec/40 to 43). -/

namespace Sys2Proof.Machine

/-- The byte string of a register file (10_state.md R33): byte `i` is bits `[8*(i mod 4)+7 : 8*(i mod 4)]` of word `i div 4`. -/
def fileBytes (ws : List Word) : Bytes := ws.flatMap le32

/-- Word `j` of the register file that holds the byte string `b` (10_state.md R33). -/
def fileWord (b : Bytes) (j : Nat) : Word := fromLE32 ((b.drop (4 * j)).take 4)

/-- The key file `K[0..31]` as one byte string (10_state.md R31, R33). -/
def keyFileBytes (k : Vector Word 8) : Bytes := fileBytes k.toList

/-- The key file that holds 32 bytes. -/
def keyFileOf (b : Bytes) : Vector Word 8 :=
  #v[fileWord b 0, fileWord b 1, fileWord b 2, fileWord b 3, fileWord b 4, fileWord b 5, fileWord b 6, fileWord b 7]

/-- The IV file that holds 16 bytes (10_state.md R32, R33). -/
def ivFileOf (b : Bytes) : Vector Word 4 := #v[fileWord b 0, fileWord b 1, fileWord b 2, fileWord b 3]

/-- The source region `(SRC_ADDR, SRC_LEN)` (R58). -/
def srcRegion (o : OperandRegs) : Region := ⟨o.srcAddr.toNat, o.srcLen.toNat⟩

/-- The auxiliary region `(AUX_ADDR, AUX_LEN)` (R58). -/
def auxRegion (o : OperandRegs) : Region := ⟨o.auxAddr.toNat, o.auxLen.toNat⟩

/-- The destination starting at DST_ADDR with the length a command's rule gives (R58). -/
def dstRegion (o : OperandRegs) (n : Nat) : Region := ⟨o.dstAddr.toNat, n⟩

/-- `KEY_LEN` in {16, 24, 32} (10_state.md R29, 42_cipher.md R90). -/
abbrev KeyLenOk (o : OperandRegs) : Prop := o.keyLen = 16 ∨ o.keyLen = 24 ∨ o.keyLen = 32

/-- `KEYBYTES(KEY_LEN)` (00_scope.md R11; R58). -/
def keyBytes (o : OperandRegs) : Bytes := (keyFileBytes o.key).take o.keyLen.toNat

/-- `IVBYTES` (00_scope.md R11; R58). -/
def ivBytes (o : OperandRegs) : Bytes := fileBytes o.iv.toList

/-- The salt operand of the KDF commands (41_kdf.md R83). -/
def saltBytes (s : State) : SaltSel → Bytes
  | .auxRegion => memRead s (auxRegion s.snap.regs)
  | .fixedSalt => Config.fixedSalt

/-- The pad length `16 - (n mod 16)`, 1 to 16 (42_cipher.md R87). -/
def padLen (n : Nat) : Nat := 16 - n % 16

/-- The destination region of CRC_APPEND: the 4 bytes right after the source (40_checksum.md R77). -/
def trailerRegion (o : OperandRegs) : Region := ⟨o.srcAddr.toNat + o.srcLen.toNat, 4⟩

/-- ENCODE's container length `T = 16 + SRC_LEN + k + 4` (43_container.md R101). -/
def containerLen (n : Nat) : Nat := 16 + n + padLen n + 4

/-- The destination region of a command in BUF, at its largest possible length where the length depends on data (20_memory.md R49);
none for the commands that do not write BUF. -/
def destRegion (i : Instr) (o : OperandRegs) : Option Region :=
  match i with
  | .crcCompute => none
  | .crcUpdate => none
  | .crcVerify => none
  | .crcAppend => some (trailerRegion o)
  | .kdfBuf _ => some (dstRegion o o.outLen.toNat)
  | .kdfKey _ => none
  | .cbcEnc => some (dstRegion o o.srcLen.toNat)
  | .cbcDec => some (dstRegion o o.srcLen.toNat)
  | .pad => some (dstRegion o (o.srcLen.toNat + padLen o.srcLen.toNat))
  | .unpad _ => some (dstRegion o o.srcLen.toNat)
  | .decode _ => some (dstRegion o (o.srcLen.toNat - 20))
  | .encode => some (dstRegion o (containerLen o.srcLen.toNat))

end Sys2Proof.Machine
end

