-- ==== Sys2Proof/Machine/Reset.lean ====
section
/-! DEFINITION. The soft reset and what it does to the command it aborts (spec/70_reset_and_hazards.md R135). -/

namespace Sys2Proof.Machine

/-- The part of a region that lies inside BUF. -/
def clipRegion (s : State) (r : Region) : Region := ⟨r.addr, min r.len (bufSize s - r.addr)⟩

/-- The destination region of the command that is BUSY, as its rule's operands give it (log 16); none when the engine is IDLE,
when the running word is illegal, or when the command writes no BUF. -/
def abortedRegion (s : State) : Option Region :=
  if s.eng = .busy then
    match decode s.cmdl with
    | .ok i => destRegion i s.snap.regs
    | .error _ => none
  else none

/-- Soft reset (R135): every register takes its reset value and the engine is IDLE; BUF keeps its contents apart from the
destination region of a command that was BUSY, whose bytes become `unspecified`. -/
def softReset (s : State) : State :=
  match abortedRegion s with
  | none => s.resetRegisters
  | some r => (s.memForget (clipRegion s r)).resetRegisters

end Sys2Proof.Machine
end

