-- ==== Sys2Proof/Machine/Bus.lean ====
section
/-! DEFINITION. The host port: the register page (spec/10_state.md R21 to R34), the BUF window and the reserved ranges
(spec/20_memory.md R41), host reads and writes while IDLE and while BUSY (R43 to R47), the issue of a command
(spec/30_encoding.md R61, R62) and the two edges of `rst_n` (spec/70_reset_and_hazards.md R134). -/

namespace Sys2Proof.Machine

/-! ### The register page -/

/-- The offset of a register in the page (10_state.md R21). -/
def regOffset : RegName → Nat
  | .id => 0x000
  | .caps => 0x004
  | .ctrl => 0x008
  | .cmd => 0x00C
  | .status => 0x010
  | .srcAddr => 0x014
  | .srcLen => 0x018
  | .dstAddr => 0x01C
  | .auxAddr => 0x020
  | .auxLen => 0x024
  | .outLen => 0x028
  | .dstLen => 0x02C
  | .kdfIter => 0x030
  | .keyLen => 0x034
  | .crcValue => 0x038
  | .key i => 0x040 + 4 * i.val
  | .iv i => 0x060 + 4 * i.val

/-- Every register of the page, in the order of R21. -/
def allRegs : List RegName :=
  [.id, .caps, .ctrl, .cmd, .status, .srcAddr, .srcLen, .dstAddr, .auxAddr, .auxLen, .outLen, .dstLen,
   .kdfIter, .keyLen, .crcValue,
   .key 0, .key 1, .key 2, .key 3, .key 4, .key 5, .key 6, .key 7,
   .iv 0, .iv 1, .iv 2, .iv 3]

/-- The register at an offset of the page; none at the reserved offsets (10_state.md R34). -/
def regAt (off : Nat) : Option RegName := allRegs.find? fun r => regOffset r == off

/-- ID (10_state.md R22). -/
def idWord : Word := 0x4F433201

/-- CAPS (10_state.md R23): BUF_LOG2, the three AES key lengths and STRICT_PAD. -/
def capsWord (s : State) : Word := 0x1E0 ||| BitVec.ofNat 32 (s.bufSel.val + 12)

/-- What a register holds (10_state.md R21 to R32). -/
def regWord (s : State) : RegName → Word
  | .id => idWord
  | .caps => capsWord s
  | .ctrl => ctrlWord s
  | .cmd => s.cmd
  | .status => statusWord s
  | .srcAddr => s.regs.srcAddr
  | .srcLen => s.regs.srcLen
  | .dstAddr => s.regs.dstAddr
  | .auxAddr => s.regs.auxAddr
  | .auxLen => s.regs.auxLen
  | .outLen => s.regs.outLen
  | .dstLen => s.dstLen
  | .kdfIter => s.regs.kdfIter
  | .keyLen => s.regs.keyLen
  | .crcValue => s.regs.crcValue
  | .key i => s.regs.key[i]
  | .iv i => s.regs.iv[i]

/-- The registers whose value a host read cannot rely on while BUSY (20_memory.md R47). -/
def hiddenWhileBusy : RegName → Bool
  | .dstLen => true
  | .crcValue => true
  | .key _ => true
  | .iv _ => true
  | _ => false

/-- Store a word in a writable operand register, KEY or IV word; the registers that are none of these are not changed. -/
def writeOperandReg (o : OperandRegs) (r : RegName) (v : Word) : OperandRegs :=
  match r with
  | .srcAddr => { o with srcAddr := v }
  | .srcLen => { o with srcLen := v }
  | .dstAddr => { o with dstAddr := v }
  | .auxAddr => { o with auxAddr := v }
  | .auxLen => { o with auxLen := v }
  | .outLen => { o with outLen := v }
  | .kdfIter => { o with kdfIter := v }
  | .keyLen => { o with keyLen := v }
  | .crcValue => { o with crcValue := v }
  | .key i => { o with key := o.key.set i v }
  | .iv i => { o with iv := o.iv.set i v }
  | .id | .caps | .ctrl | .cmd | .status | .dstLen => o

/-- A host write of CTRL (10_state.md R24): IRQ_EN, and a soft reset when SOFT_RESET is written 1, which clears IRQ_EN again. -/
def writeCtrl (s : State) (v : Word) : State :=
  if v.getLsbD 1 then softReset s else { s with irqEn := v.getLsbD 0 }

/-- A host write of CMD (30_encoding.md R61, R62): accepted while IDLE; dropped, setting OVERRUN, while BUSY. -/
def writeCmd (s : State) (v : Word) : State :=
  if s.eng = .busy then { s with overrun := true } else s.accept v

/-- A write that is dropped because the engine is BUSY (20_memory.md R47). -/
def dropWrite (s : State) : State := { s with accessErr := true }

/-- A host write of BUF or of a register other than CMD, CTRL and STATUS (20_memory.md R46, R47; 60_exceptions.md R127, R132): while
BUSY it is dropped and flagged, while IDLE it leaves `t`. -/
def writeWhileIdle (s t : State) : State := if s.eng = .busy then dropWrite s else t

/-- A write of a read-only register: ignored (10_state.md R22, R23, R27). While BUSY it is a dropped write like any other and sets
ACCESS_ERR (60_exceptions.md R132, log 15). -/
def ignoreWrite (s : State) : State := writeWhileIdle s s

/-- A host write of a register (10_state.md R21). -/
def writeReg (s : State) (r : RegName) (v : Word) : State :=
  match r with
  | .ctrl => writeCtrl s v
  | .cmd => writeCmd s v
  | .status => s.writeStatus v
  | .id | .caps | .dstLen => ignoreWrite s
  | .srcAddr | .srcLen | .dstAddr | .auxAddr | .auxLen | .outLen | .kdfIter | .keyLen | .crcValue | .key _ | .iv _ =>
    writeWhileIdle s { s with regs := writeOperandReg s.regs r v }

/-! ### The aperture -/

/-- What lies at an offset of the aperture (20_memory.md R41). -/
inductive Target where
  /-- A register of the page. -/
  | register (r : RegName)
  /-- BUF byte `a`. -/
  | buffer (a : Nat)
  /-- Reserved: reads as zero, writes ignored. -/
  | reserved
  deriving DecidableEq, Repr

/-- The address map (20_memory.md R41, 10_state.md R34). -/
def targetAt (s : State) (off : Offset) : Target :=
  if off.toNat < 0x1000 then
    match regAt off.toNat with
    | some r => .register r
    | none => .reserved
  else if 0x01000000 ≤ off.toNat ∧ off.toNat < 0x01000000 + bufSize s then .buffer (off.toNat - 0x01000000)
  else .reserved

/-- R43: natural alignment, and only 4-byte accesses in the register page. -/
def accessAllowed (off : Offset) (w : Width) : Bool :=
  off.toNat % w.bytes == 0 && (decide (0x1000 ≤ off.toNat) || w.bytes == 4)

/-- The value of a byte string of at most four bytes on the port: byte 0 in bits [7:0] (20_memory.md R45). -/
def busValue (b : Bytes) : Word := fromLE32 b

/-- The low `w` bytes of a written value, lowest first (20_memory.md R45). -/
def busBytes (w : Width) (v : Word) : Bytes := (le32 v).take w.bytes

/-- A read whose value is `unspecified` (20_memory.md R47; U13): a fresh free value in the bytes of the width. -/
def readUnspecified (s : State) (w : Width) : State :=
  { s with
    resp := .data (busValue (busBytes w (Config.unspecifiedWord s.unspecCount)))
    unspecCount := s.unspecCount + 1 }

/-- `BusRead(off, w)` (20_memory.md R43 to R47). Nothing but the port's answer changes; the counter of `unspecified` events is the
model's own. -/
def busRead (s : State) (off : Offset) (w : Width) : State :=
  if !accessAllowed off w then { s with resp := .busError }
  else match targetAt s off with
    | .register r =>
      if s.eng = .busy ∧ hiddenWhileBusy r = true then readUnspecified s w else { s with resp := .data (regWord s r) }
    | .buffer a =>
      if s.eng = .busy then readUnspecified s w else { s with resp := .data (busValue (bufRead s.buf a w.bytes)) }
    | .reserved => { s with resp := .data 0 }

/-- The effect of an allowed host write, apart from the port's answer (20_memory.md R46, R47). At a reserved offset no state changes,
while IDLE or BUSY (10_state.md R34; 20_memory.md R41; log 15). -/
def writeTarget (s : State) (off : Offset) (w : Width) (v : Word) : State :=
  match targetAt s off with
  | .register r => writeReg s r v
  | .buffer a => writeWhileIdle s { s with buf := bufWrite s.buf a (busBytes w v) }
  | .reserved => s

/-- `BusWrite(off, w, v)` (20_memory.md R43 to R47). -/
def busWrite (s : State) (off : Offset) (w : Width) (v : Word) : State :=
  if !accessAllowed off w then { s with resp := .busError }
  else { writeTarget s off w v with resp := .written }

/-- `rst_n` is released (70_reset_and_hazards.md R134): "the block is IDLE and ready to accept a command". -/
def releaseReset (s : State) : State := { s with inReset := false }

/-- The offset an address of the platform selects in the block (20_memory.md R41); none outside its aperture. -/
def apertureOffset (addr : Nat) : Option Offset :=
  if Config.regBase ≤ addr ∧ addr < Config.regBase + 2 ^ 25 then some (BitVec.ofNat 25 (addr - Config.regBase)) else none

/-- The platform's address of an offset of the aperture (20_memory.md R41). -/
def platformAddress (off : Offset) : Nat := Config.regBase + off.toNat

end Sys2Proof.Machine
end

