-- ==== Sys2Proof/Machine/Checksum.lean ====
section
/-! DEFINITION. The Checksum Engine (spec/40_checksum.md): the custom CRC and the commands CRC_COMPUTE, CRC_UPDATE, CRC_VERIFY
and CRC_APPEND. The functions take the generator and the seed as arguments (R68); the block's are OPEN constants (log 7). -/

namespace Sys2Proof.Machine

/-- One of the eight iterations of R69. -/
def crcShift (g v : Word) : Word := if v.getLsbD 0 then (v >>> 1) ^^^ g else v >>> 1

/-- `TABLE[i]` for the generator `g` (R69). -/
def crcTable (g : Word) (i : Byte) : Word := (crcShift g)^[8] (i.setWidth 32)

/-- The fold over one byte (R70). -/
def crcByte (g st : Word) (b : Byte) : Word := (st >>> 8) ^^^ crcTable g (b ^^^ st.extractLsb' 0 8)

/-- `CRC(state, data)` (R70). -/
def crcFold (g st : Word) (data : Bytes) : Word := data.foldl (crcByte g) st

/-- `CRC(state, data)` with the block's generator. -/
def crc (st : Word) (data : Bytes) : Word := crcFold Config.crcPolyG st data

/-- `CHECKSUM(data) = CRC(S, data)` (R71). -/
def checksum (data : Bytes) : Word := crc Config.crcSeedS data

/-- `VERIFY(data)` for `len(data) >= 4` (R73): the computed checksum, and whether the stored trailer differs from it. -/
def verify (data : Bytes) : Word × Bool :=
  let computed := checksum (data.take (data.length - 4))
  (computed, computed != fromLE32 (data.drop (data.length - 4)))

/-- CRC_COMPUTE (R74). -/
def execCrcCompute (s : State) : Host.Outcome State Fault Refusal :=
  let src := srcRegion s.snap.regs
  .next <|
    if ¬ InRange s src then raise .badRange s
    else finish ((s.setCrc (checksum (memRead s src))).setDstLen 0)

/-- CRC_UPDATE (R75). -/
def execCrcUpdate (s : State) : Host.Outcome State Fault Refusal :=
  let src := srcRegion s.snap.regs
  .next <|
    if ¬ InRange s src then raise .badRange s
    else finish ((s.setCrc (crc s.snap.regs.crcValue (memRead s src))).setDstLen 0)

/-- CRC_VERIFY (R76). A mismatch is a warning, never an error (60_exceptions.md R119). -/
def execCrcVerify (s : State) : Host.Outcome State Fault Refusal :=
  let src := srcRegion s.snap.regs
  .next <|
    if src.len < 4 then raise .badLength s
    else if ¬ InRange s src then raise .badRange s
    else
      let v := verify (memRead s src)
      finish (((s.setCrc v.1).warnIf v.2).setDstLen 0)

/-- CRC_APPEND (R77). -/
def execCrcAppend (s : State) : Host.Outcome State Fault Refusal :=
  let src := srcRegion s.snap.regs
  .next <|
    if ¬ InRange s ⟨src.addr, src.len + 4⟩ then raise .badRange s
    else
      let c := checksum (memRead s src)
      finish (((s.memWrite (trailerRegion s.snap.regs).addr (le32 c)).setCrc c).setDstLen 4)

end Sys2Proof.Machine
end

