-- ==== Sys2Proof/Machine/Aes.lean ====
section
/-! DEFINITION. AES (spec/45_primitives.md R104 to R112): the block cipher of the container codec, on byte strings. The state
is the 16-byte string of R106 read column by column: byte `i` is `s[i mod 4][i div 4]`. Log 19. -/

namespace Sys2Proof.Machine

/-! ### Bytes in GF(2^8) (R105) -/

/-- `xtime(a)` (R105). -/
def xtime (a : Byte) : Byte := if a.msb then (a <<< 1) ^^^ 0x1B else a <<< 1

/-- The sum of `xtime` powers of `a` selected by the low `n` bits of `b` (R105). -/
def gmulBits : Nat → Byte → Byte → Byte
  | 0, _, _ => 0
  | n + 1, a, b => (if b.getLsbD 0 then a else 0) ^^^ gmulBits n (xtime a) (b >>> 1)

/-- `a * b` in GF(2^8) (R105). -/
def gmul (a b : Byte) : Byte := gmulBits 8 a b

/-! ### The byte substitutions (R107): one row of the spec's table per literal, column x0 in the top byte -/

/-- The rows of `SBOX` (R107). -/
def sboxRows : List (BitVec 128) :=
  [0x637C777BF26B6FC53001672BFED7AB76, 0xCA82C97DFA5947F0ADD4A2AF9CA472C0,
   0xB7FD9326363FF7CC34A5E5F171D83115, 0x04C723C31896059A071280E2EB27B275,
   0x09832C1A1B6E5AA0523BD6B329E32F84, 0x53D100ED20FCB15B6ACBBE394A4C58CF,
   0xD0EFAAFB434D338545F9027F503C9FA8, 0x51A3408F929D38F5BCB6DA2110FFF3D2,
   0xCD0C13EC5F974417C4A77E3D645D1973, 0x60814FDC222A908846EEB814DE5E0BDB,
   0xE0323A0A4906245CC2D3AC629195E479, 0xE7C8376D8DD54EA96C56F4EA657AAE08,
   0xBA78252E1CA6B4C6E8DD741F4BBD8B8A, 0x703EB5664803F60E613557B986C11D9E,
   0xE1F8981169D98E949B1E87E9CE5528DF, 0x8CA1890DBFE6426841992D0FB054BB16]

/-- The rows of `INV_SBOX` (R107). -/
def invSboxRows : List (BitVec 128) :=
  [0x52096AD53036A538BF40A39E81F3D7FB, 0x7CE339829B2FFF87348E4344C4DEE9CB,
   0x547B9432A6C2233DEE4C950B42FAC34E, 0x082EA16628D924B2765BA2496D8BD125,
   0x72F8F66486689816D4A45CCC5D65B692, 0x6C704850FDEDB9DA5E154657A78D9D84,
   0x90D8AB008CBCD30AF7E45805B8B34506, 0xD02C1E8FCA3F0F02C1AFBD0301138A6B,
   0x3A9111414F67DCEA97F2CFCEF0B4E673, 0x96AC7422E7AD3585E2F937E81C75DF6E,
   0x47F11A711D29C5896FB7620EAA18BE1B, 0xFC563E4BC6D279209ADBC0FE78CD5AF4,
   0x1FDDA8338807C731B11210592780EC5F, 0x60517FA919B54A0D2DE57A9F93C99CEF,
   0xA0E03B4DAE2AF5B0C8EBBB3C83539961, 0x172B047EBA77D626E169146355210C7D]

/-- Row = high nibble, column = low nibble (R107). -/
def tableByte (rows : List (BitVec 128)) (a : Byte) : Byte :=
  (rows.getD (a.toNat / 16) 0).extractLsb' (8 * (15 - a.toNat % 16)) 8

/-- `SBOX[a]` (R107). -/
def sbox (a : Byte) : Byte := tableByte sboxRows a

/-- `INV_SBOX[a]` (R107). -/
def invSbox (a : Byte) : Byte := tableByte invSboxRows a

/-! ### The round transformations -/

/-- SubBytes (R107). -/
def subBytes (s : Bytes) : Bytes := s.map sbox

/-- InvSubBytes (R107). -/
def invSubBytes (s : Bytes) : Bytes := s.map invSbox

/-- ShiftRows (R108): `s'[r][c] = s[r][(c + r) mod 4]`, with `r = i mod 4` and `c = i div 4`. -/
def shiftRows (s : Bytes) : Bytes :=
  (List.range 16).map fun i => byteAt s (i % 4 + 4 * ((i / 4 + i % 4) % 4))

/-- InvShiftRows (R108): `s'[r][(c + r) mod 4] = s[r][c]`. -/
def invShiftRows (s : Bytes) : Bytes :=
  (List.range 16).map fun i => byteAt s (i % 4 + 4 * ((i / 4 + 4 - i % 4) % 4))

/-- MixColumns (R109), one column of four bytes at a time. -/
def mixColumns : Bytes → Bytes
  | a0 :: a1 :: a2 :: a3 :: rest =>
    (gmul a0 2 ^^^ gmul a1 3 ^^^ a2 ^^^ a3) ::
    (a0 ^^^ gmul a1 2 ^^^ gmul a2 3 ^^^ a3) ::
    (a0 ^^^ a1 ^^^ gmul a2 2 ^^^ gmul a3 3) ::
    (gmul a0 3 ^^^ a1 ^^^ a2 ^^^ gmul a3 2) :: mixColumns rest
  | _ => []

/-- InvMixColumns (R109). -/
def invMixColumns : Bytes → Bytes
  | a0 :: a1 :: a2 :: a3 :: rest =>
    (gmul a0 14 ^^^ gmul a1 11 ^^^ gmul a2 13 ^^^ gmul a3 9) ::
    (gmul a0 9 ^^^ gmul a1 14 ^^^ gmul a2 11 ^^^ gmul a3 13) ::
    (gmul a0 13 ^^^ gmul a1 9 ^^^ gmul a2 14 ^^^ gmul a3 11) ::
    (gmul a0 11 ^^^ gmul a1 13 ^^^ gmul a2 9 ^^^ gmul a3 14) :: invMixColumns rest
  | _ => []

/-! ### Key expansion (R110) -/

/-- `Nk`, the key length in words (R104). -/
def aesNk (k : Bytes) : Nat := k.length / 4

/-- `Nr`, the number of rounds (R104): 10, 12, 14 for `Nk` = 4, 6, 8. -/
def aesNr (k : Bytes) : Nat := aesNk k + 6

/-- `Rcon[j] = xtime^(j-1)(1)` (R110). -/
def rcon (j : Nat) : Byte := xtime^[j - 1] 1

/-- RotWord (R110). -/
def rotWord : Bytes → Bytes
  | a0 :: rest => rest ++ [a0]
  | [] => []

/-- `t` of R110 for word `i`, from word `i - 1`. -/
def keyTemp (nk i : Nat) (prev : Bytes) : Bytes :=
  if i % nk = 0 then xorBytes ((rotWord prev).map sbox) [rcon (i / nk), 0, 0, 0]
  else if nk = 8 ∧ i % nk = 4 then prev.map sbox
  else prev

/-- Append `w[i] = w[i - Nk] XOR t` (R110). -/
def keyStep (nk : Nat) (w : List Bytes) (i : Nat) : List Bytes :=
  w ++ [xorBytes (w.getD (i - nk) []) (keyTemp nk i (w.getD (i - 1) []))]

/-- The key expansion: `4 * (Nr + 1)` words of four bytes (R110). -/
def keyExpand (k : Bytes) : List Bytes :=
  (List.range' (aesNk k) (4 * (aesNr k + 1) - aesNk k)).foldl (keyStep (aesNk k)) (chunks 4 (aesNk k) k)

/-- The words `w[4r]` to `w[4r + 3]` as one 16-byte string, column by column (R110). -/
def roundKey (w : List Bytes) (r : Nat) : Bytes := ((w.drop (4 * r)).take 4).flatten

/-- AddRoundKey(`r`) (R110). -/
def addRoundKey (w : List Bytes) (r : Nat) (s : Bytes) : Bytes := xorBytes s (roundKey w r)

/-! ### The cipher and the inverse cipher -/

/-- A middle round of the cipher (R111). -/
def encRound (w : List Bytes) (s : Bytes) (r : Nat) : Bytes :=
  addRoundKey w r (mixColumns (shiftRows (subBytes s)))

/-- The cipher over an expanded key of `nr` rounds (R111). -/
def aesEncWith (w : List Bytes) (nr : Nat) (blk : Bytes) : Bytes :=
  addRoundKey w nr (shiftRows (subBytes ((List.range' 1 (nr - 1)).foldl (encRound w) (addRoundKey w 0 blk))))

/-- A middle round of the inverse cipher (R112). -/
def decRound (w : List Bytes) (s : Bytes) (r : Nat) : Bytes :=
  invMixColumns (addRoundKey w r (invSubBytes (invShiftRows s)))

/-- The inverse cipher over an expanded key of `nr` rounds: rounds `nr - 1` down to 1 (R112). -/
def aesDecWith (w : List Bytes) (nr : Nat) (blk : Bytes) : Bytes :=
  addRoundKey w 0 (invSubBytes (invShiftRows
    ((List.range' 1 (nr - 1)).reverse.foldl (decRound w) (addRoundKey w nr blk))))

/-- `AES_ENC(k, blk)` (R104, R111). -/
def aesEnc (k blk : Bytes) : Bytes := aesEncWith (keyExpand k) (aesNr k) blk

/-- `AES_DEC(k, blk)` (R104, R112). -/
def aesDec (k blk : Bytes) : Bytes := aesDecWith (keyExpand k) (aesNr k) blk

end Sys2Proof.Machine
end

