-- ==== Sys2Proof/Machine/Cipher.lean ====
section
/-! DEFINITION. Padding and AES-CBC (spec/42_cipher.md) and the commands CBC_ENC, CBC_DEC, PAD and UNPAD. -/

namespace Sys2Proof.Machine

/-- `PAD(p)` (R87). -/
def padBytes (p : Bytes) : Bytes := p ++ rep (padLen p.length) (BitVec.ofNat 8 (padLen p.length))

/-- The pad length byte `p = d[len(d) - 1]` (R88). -/
def padByte (d : Bytes) : Nat := (byteAt d (d.length - 1)).toNat

/-- `UNPAD_L(d)` for `len(d) >= 1` (R88): `d[0 : max(0, len(d) - p)]`. -/
def unpadL (d : Bytes) : Bytes := d.take (d.length - padByte d)

/-- The padding of `d` is valid (R89). -/
abbrev PadValid (d : Bytes) : Prop :=
  1 ≤ d.length ∧ d.length % 16 = 0 ∧ 1 ≤ padByte d ∧ padByte d ≤ 16 ∧ padByte d ≤ d.length ∧
    d.drop (d.length - padByte d) = rep (padByte d) (BitVec.ofNat 8 (padByte d))

/-- `UNPAD_S(d)` (R89): none when the padding is not valid. -/
def unpadS (d : Bytes) : Option Bytes := if PadValid d then some (unpadL d) else none

/-- CBC over the blocks, `c` the chaining value (R91). -/
def cbcEncBlocks (k : Bytes) : Bytes → List Bytes → Bytes
  | _, [] => []
  | c, p :: ps =>
    let c' := aesEnc k (xorBytes p c)
    c' ++ cbcEncBlocks k c' ps

/-- `CBC_ENC(k, iv, p)` (R91). -/
def cbcEnc (k iv p : Bytes) : Bytes := cbcEncBlocks k iv (chunks 16 (p.length / 16) p)

/-- Inverse CBC over the blocks, `c` the chaining value (R92). -/
def cbcDecBlocks (k : Bytes) : Bytes → List Bytes → Bytes
  | _, [] => []
  | c, x :: xs => xorBytes (aesDec k x) c ++ cbcDecBlocks k x xs

/-- `CBC_DEC(k, iv, c)` (R92). -/
def cbcDec (k iv c : Bytes) : Bytes := cbcDecBlocks k iv (chunks 16 (c.length / 16) c)

/-- The common rule of CBC_ENC and CBC_DEC (R94, R95), `f` the mode's function of key, IV and data. -/
def cbcCommand (f : Bytes → Bytes → Bytes → Bytes) (s : State) : State :=
  let o := s.snap.regs
  let src := srcRegion o
  let dst := dstRegion o o.srcLen.toNat
  if ¬ KeyLenOk o then raise .badKeyLen s
  else if src.len % 16 ≠ 0 then raise .badLength s
  else if ¬ InRange s src then raise .badRange s
  else if ¬ InRange s dst then raise .badRange s
  else if PartialOverlap dst src then raise .overlap s
  else finish ((s.memWrite dst.addr (f (keyBytes o) (ivBytes o) (memRead s src))).setDstLen src.len)

/-- CBC_ENC (R94). -/
def execCbcEnc (s : State) : Host.Outcome State Fault Refusal := .next (cbcCommand cbcEnc s)

/-- CBC_DEC (R95). -/
def execCbcDec (s : State) : Host.Outcome State Fault Refusal := .next (cbcCommand cbcDec s)

/-- PAD (R96). -/
def execPad (s : State) : Host.Outcome State Fault Refusal :=
  let o := s.snap.regs
  let src := srcRegion o
  let dst := dstRegion o (src.len + padLen src.len)
  .next <|
    if ¬ InRange s src then raise .badRange s
    else if ¬ InRange s dst then raise .badRange s
    else if PartialOverlap dst src then raise .overlap s
    else finish ((s.memWrite dst.addr (padBytes (memRead s src))).setDstLen dst.len)

/-- UNPAD (R97). -/
def execUnpad (mode : PadMode) (s : State) : Host.Outcome State Fault Refusal :=
  let o := s.snap.regs
  let src := srcRegion o
  let dst := dstRegion o src.len
  .next <|
    if src.len = 0 then raise .badLength s
    else if ¬ InRange s src then raise .badRange s
    else if ¬ InRange s dst then raise .badRange s
    else if PartialOverlap dst src then raise .overlap s
    else
      let d := memRead s src
      if mode = .strict ∧ ¬ PadValid d then raise .badPadding s
      else finish ((s.memWrite dst.addr (unpadL d)).setDstLen (unpadL d).length)

end Sys2Proof.Machine
end

