-- ==== Sys2Proof/Machine/Container.lean ====
section
/-! DEFINITION. The container codec (spec/43_container.md) and the commands DECODE and ENCODE. -/

namespace Sys2Proof.Machine

/-- The container `IV || Ciphertext || Checksum` of a plaintext (R98; R101 steps 3 to 5). -/
def containerBody (k iv p : Bytes) : Bytes := iv ++ cbcEnc k iv (padBytes p)

/-- DECODE's steps 2 and 3 (R100): the IV is `c[0:16]`, the ciphertext `c[16 : len - 4]`. -/
def containerDecrypt (k c : Bytes) : Bytes := cbcDec k (c.take 16) ((c.drop 16).take (c.length - 20))

/-- DECODE (R100). -/
def execDecode (mode : PadMode) (s : State) : Host.Outcome State Fault Refusal :=
  let o := s.snap.regs
  let src := srcRegion o
  let dst := dstRegion o (src.len - 20)
  .next <|
    if ¬ KeyLenOk o then raise .badKeyLen s
    else if src.len ≤ 20 then raise .malformedContainer s
    else if (src.len - 20) % 16 ≠ 0 then raise .malformedContainer s
    else if ¬ InRange s src then raise .badRange s
    else if ¬ InRange s dst then raise .badRange s
    else if PartialOverlap dst src then raise .overlap s
    else
      let c := memRead s src
      let v := verify c
      let warned := (s.setCrc v.1).warnIf v.2
      let d := containerDecrypt (keyBytes o) c
      if mode = .strict ∧ ¬ PadValid d then raise .decryptionFailed (warned.memForget dst)
      else if ¬ Config.structuredValid (unpadL d) then raise .decryptionFailed (warned.memForget dst)
      else finish ((warned.memWrite dst.addr (unpadL d)).setDstLen (unpadL d).length)

/-- ENCODE (R101). The draw is taken after the validation, and only then. -/
def execEncode (s : State) : Host.Outcome State Fault Refusal :=
  let o := s.snap.regs
  let src := srcRegion o
  let dst := dstRegion o (containerLen src.len)
  .next <|
    if ¬ KeyLenOk o then raise .badKeyLen s
    else if ¬ InRange s src then raise .badRange s
    else if ¬ InRange s dst then raise .badRange s
    else if PartialOverlap dst src then raise .overlap s
    else
      let p := memRead s src
      if ¬ Config.structuredValid p then raise .invalidPlaintext s
      else
        let iv := nextDraw s
        let body := containerBody (keyBytes o) iv p
        let c := checksum body
        finish ((((s.drawTaken.memWrite dst.addr (body ++ le32 c)).setIv (ivFileOf iv)).setCrc c).setDstLen dst.len)

end Sys2Proof.Machine
end

