-- ==== Sys2Proof/Machine/Sha1.lean ====
section
/-! DEFINITION. SHA-1 (spec/45_primitives.md R115): the hash this hardware's KDF is bound to (spec/41_kdf.md R79). Log 10. -/

namespace Sys2Proof.Machine

/-- The five chaining words `H0..H4`, or the working words `(a, b, c, d, e)` (R115). -/
structure Sha1State where
  a : Word
  b : Word
  c : Word
  d : Word
  e : Word
  deriving DecidableEq, Repr

/-- The initial `H0..H4` (R115). -/
def sha1Init : Sha1State := ⟨0x67452301, 0xEFCDAB89, 0x98BADCFE, 0x10325476, 0xC3D2E1F0⟩

/-- The number `z` of zero bytes, the smallest that makes the padded length a multiple of 64 (R115). -/
def sha1Zeros (len : Nat) : Nat := (119 - len % 64) % 64

/-- The padded message `m || 0x80 || rep(z, 0x00) || BE64(8 * len(m))` (R115). -/
def sha1Pad (m : Bytes) : Bytes := m ++ [0x80] ++ rep (sha1Zeros m.length) 0x00 ++ be64 (8 * m.length)

/-- Append `W[t] = rotl(W[t-3] XOR W[t-8] XOR W[t-14] XOR W[t-16], 1)` (R115). -/
def sha1Extend (w : List Word) (t : Nat) : List Word :=
  w ++ [(w.getD (t - 3) 0 ^^^ w.getD (t - 8) 0 ^^^ w.getD (t - 14) 0 ^^^ w.getD (t - 16) 0).rotateLeft 1]

/-- The 80 words `W[0..79]` of a 64-byte block (R115). -/
def sha1Schedule (block : Bytes) : List Word :=
  (List.range' 16 64).foldl sha1Extend ((chunks 4 16 block).map fromBE32)

/-- `f` of round `t` (R115). -/
def sha1F (t : Nat) (b c d : Word) : Word :=
  if t ≤ 19 then (b &&& c) ||| (~~~b &&& d)
  else if t ≤ 39 then b ^^^ c ^^^ d
  else if t ≤ 59 then (b &&& c) ||| (b &&& d) ||| (c &&& d)
  else b ^^^ c ^^^ d

/-- `K` of round `t` (R115). -/
def sha1K (t : Nat) : Word :=
  if t ≤ 19 then 0x5A827999
  else if t ≤ 39 then 0x6ED9EBA1
  else if t ≤ 59 then 0x8F1BBCDC
  else 0xCA62C1D6

/-- Round `t` (R115). -/
def sha1Round (w : List Word) (s : Sha1State) (t : Nat) : Sha1State :=
  { a := s.a.rotateLeft 5 + sha1F t s.b s.c s.d + s.e + sha1K t + w.getD t 0
    b := s.a
    c := s.b.rotateLeft 30
    d := s.c
    e := s.d }

/-- One 64-byte block: eighty rounds, then the sum with the chaining words (R115). -/
def sha1Block (h : Sha1State) (block : Bytes) : Sha1State :=
  let s := (List.range 80).foldl (sha1Round (sha1Schedule block)) h
  ⟨h.a + s.a, h.b + s.b, h.c + s.c, h.d + s.d, h.e + s.e⟩

/-- The 20-byte digest of the chaining words (R115). -/
def sha1Digest (h : Sha1State) : Bytes := be32 h.a ++ be32 h.b ++ be32 h.c ++ be32 h.d ++ be32 h.e

/-- `SHA1(m)` (R115). -/
def sha1 (m : Bytes) : Bytes :=
  let p := sha1Pad m
  sha1Digest ((chunks 64 (p.length / 64) p).foldl sha1Block sha1Init)

end Sys2Proof.Machine
end

