-- ==== Sys2Proof/Machine/Kdf.lean ====
section
/-! DEFINITION. The Key Derivation Function unit (spec/41_kdf.md) and the commands KDF_BUF and KDF_KEY. `kdf` takes the hash as
an argument (R79); this hardware's is SHA-1 (log 10). -/

namespace Sys2Proof.Machine

/-- `KDF_HASH` of this hardware (R79; D6). -/
def kdfHash (m : Bytes) : Bytes := sha1 m

/-- The base digest `D` (R80, steps 1 to 3): `H` applied `iterations` times to `secret || salt` (90_conflicts.md C1). -/
def kdfBase (H : Bytes → Bytes) (secret salt : Bytes) (iterations : Nat) : Bytes :=
  H (H^[iterations - 1] (secret ++ salt))

/-- The expansion loop (R80, step 4), `c` the next counter; `fuel` bounds the iterations, and `n` of them are always enough. -/
def kdfExpand (H : Bytes → Bytes) (D : Bytes) (n : Nat) : Nat → Nat → Bytes → Bytes
  | 0, _, out => out
  | fuel + 1, c, out =>
    if out.length < n then kdfExpand H D n fuel (c + 1) (out ++ H (asciiDec c ++ D)) else out

/-- `KDF(secret, salt, iterations, n)` (R80). -/
def kdf (H : Bytes → Bytes) (secret salt : Bytes) (iterations n : Nat) : Bytes :=
  let D := kdfBase H secret salt iterations
  (kdfExpand H D n n 1 D).take n

/-- The AUX region is checked only when it is the salt (R83). -/
abbrev SaltInRange (s : State) (salt : SaltSel) : Prop :=
  salt = .auxRegion → InRange s (auxRegion s.snap.regs)

/-- KDF_BUF (R84). -/
def execKdfBuf (salt : SaltSel) (s : State) : Host.Outcome State Fault Refusal :=
  let o := s.snap.regs
  let src := srcRegion o
  let dst := dstRegion o o.outLen.toNat
  .next <|
    if o.kdfIter = 0 ∨ o.outLen = 0 then raise .invalidParameter s
    else if ¬ InRange s src then raise .badRange s
    else if ¬ SaltInRange s salt then raise .badRange s
    else if ¬ InRange s dst then raise .badRange s
    else if PartialOverlap dst src then raise .overlap s
    else if salt = .auxRegion ∧ PartialOverlap dst (auxRegion o) then raise .overlap s
    else
      let k := kdf kdfHash (memRead s src) (saltBytes s salt) o.kdfIter.toNat o.outLen.toNat
      finish ((s.memWrite dst.addr k).setDstLen o.outLen.toNat)

/-- KDF_KEY (R85). Key bytes beyond KEY_LEN become zero (D33). -/
def execKdfKey (salt : SaltSel) (s : State) : Host.Outcome State Fault Refusal :=
  let o := s.snap.regs
  let src := srcRegion o
  .next <|
    if ¬ KeyLenOk o then raise .badKeyLen s
    else if o.kdfIter = 0 then raise .invalidParameter s
    else if ¬ InRange s src then raise .badRange s
    else if ¬ SaltInRange s salt then raise .badRange s
    else
      let k := kdf kdfHash (memRead s src) (saltBytes s salt) o.kdfIter.toNat o.keyLen.toNat
      finish ((s.setKey (keyFileOf (k ++ rep (32 - o.keyLen.toNat) 0x00))).setDstLen o.keyLen.toNat)

end Sys2Proof.Machine
end

