-- ==== Sys2Proof/Machine/Dispatch.lean ====
section
/-! DEFINITION. One arm per command: the meaning each constructor of Instr has. -/

namespace Sys2Proof.Machine

-- A command runs over the snapshot of its acceptance and ends in its completion (60_exceptions.md R120).
def exec (i : Instr) (s : State) : Host.Outcome State Fault Refusal :=
  match i with
  | .crcCompute => Sys2Proof.Machine.execCrcCompute s
  | .crcUpdate => Sys2Proof.Machine.execCrcUpdate s
  | .crcVerify => Sys2Proof.Machine.execCrcVerify s
  | .crcAppend => Sys2Proof.Machine.execCrcAppend s
  | .kdfBuf salt => Sys2Proof.Machine.execKdfBuf salt s
  | .kdfKey salt => Sys2Proof.Machine.execKdfKey salt s
  | .cbcEnc => Sys2Proof.Machine.execCbcEnc s
  | .cbcDec => Sys2Proof.Machine.execCbcDec s
  | .pad => Sys2Proof.Machine.execPad s
  | .unpad mode => Sys2Proof.Machine.execUnpad mode s
  | .decode mode => Sys2Proof.Machine.execDecode mode s
  | .encode => Sys2Proof.Machine.execEncode s

end Sys2Proof.Machine
end

