-- ==== Sys2Proof/Machine/Engine.lean ====
section
/-! DEFINITION. Which agent moves, and the engine's own move (spec/10_state.md R17, R18; spec/30_encoding.md R63;
spec/70_reset_and_hazards.md R139). -/

namespace Sys2Proof.Machine

/-- The engine's turn: an IDLE engine keeps all state (60_exceptions.md R131); a BUSY one executes the command its latched word
selects, to its completion, or completes with ILLEGAL_CMD when the word is none (30_encoding.md R63, R64). -/
def engineTurn (s : State) : Host.Outcome State Fault Refusal :=
  if s.eng = .busy then
    match decode s.cmdl with
    | .ok i => exec i s
    | .error _ => .next (raise .illegalCmd s)
  else .next s

/-- A host access: while `rst_n` is asserted it gets no response the model can rely on (70_reset_and_hazards.md R134; log 14). -/
def hostAccess (s : State) (answered : State) : Host.Outcome State Fault Refusal :=
  if s.inReset then .fault .accessDuringReset else .next answered

/-- One input of the outside world, taken from the list before it acts. -/
def takeInput (s : State) : HostInput → Host.Outcome State Fault Refusal
  | .read off w => hostAccess s (busRead s off w)
  | .write off w v => hostAccess s (busWrite s off w v)
  | .engineTurn => engineTurn s
  | .assertReset => .next (hardReset s)
  | .releaseReset => .next (releaseReset s)

/-- One step: the next input acts; with none left, the engine moves (log 1). -/
def stepOnce (s : State) : Host.Outcome State Fault Refusal :=
  match s.inputs with
  | [] => engineTurn s
  | i :: rest => takeInput { s with inputs := rest } i

/-- The word `w` of `nbits` bits has just been accepted as the next command, no input is pending and `rst_n` is released (log 2). -/
def issueWord (s : State) (nbits w : Nat) : State :=
  { s.accept (BitVec.ofNat 32 (w % 2 ^ nbits)) with
    inputs := []
    inReset := false }

end Sys2Proof.Machine
end

