-- ==== Sys2Proof/Safety.lean ====
section
/-! DEFINITION. The terms the claims use: what a command leaves alone, what it stores, how it ends, which operand error is due
(spec/60_exceptions.md R118, written as a table apart from the meanings), which registers it reads and writes
(spec/30_encoding.md R60), the invariant of the machine, and what a host may rely on (R123, R132). -/

namespace Sys2Proof.Machine

/-! ### Frames -/

/-- What no command writes: CAPS, CTRL, CMD, OVERRUN, ACCESS_ERR, CMDL, the snapshot, the ports and the host's inputs. -/
def Untouched (s t : State) : Prop :=
  t.bufSel = s.bufSel ∧ t.irqEn = s.irqEn ∧ t.cmd = s.cmd ∧ t.overrun = s.overrun ∧ t.accessErr = s.accessErr ∧
    t.cmdl = s.cmdl ∧ t.snap = s.snap ∧ t.inReset = s.inReset ∧ t.resp = s.resp ∧ t.inputs = s.inputs

/-- The command of `s` has completed in `t` (60_exceptions.md R120) with error code `e` and `n` bytes produced. -/
def CompletedWith (s t : State) (e : ErrCode) (n : Nat) : Prop :=
  t.eng = .idle ∧ t.done = true ∧ t.errCode = e ∧ t.dstLen.toNat = n ∧ Untouched s t

/-- Every byte of BUF reads as before. -/
def BufKept (s t : State) : Prop := ∀ a, bufByte t.buf a = bufByte s.buf a

/-- BUF holds `v` from `addr` on, and every other byte reads as before (20_memory.md R51). -/
def BufStored (s t : State) (addr : Nat) (v : Bytes) : Prop :=
  (∀ i, i < v.length → bufByte t.buf (addr + i) = byteAt v i) ∧
    ∀ a, ¬(addr ≤ a ∧ a < addr + v.length) → bufByte t.buf a = bufByte s.buf a

/-- Every byte of BUF outside a region reads as before. -/
def BufKeptOutside (s t : State) (r : Region) : Prop := ∀ a, ¬r.has a → bufByte t.buf a = bufByte s.buf a

/-- No draw was taken and no `unspecified` event happened. -/
def FreeKept (s t : State) : Prop := t.ivDraws = s.ivDraws ∧ t.unspecCount = s.unspecCount

/-- The command of `s` has failed in `t` with `e` and changed nothing else: only STATUS and DST_LEN differ (R118, R121). -/
def FailedWith (s t : State) (e : ErrCode) : Prop :=
  CompletedWith s t e 0 ∧ t.regs = s.regs ∧ t.chkWarn = s.chkWarn ∧ BufKept s t ∧ FreeKept s t

/-! ### Operand errors, as the table of R117 and the order of R118 -/

/-- The code in STATUS.ERRCODE of each error, as the table of R117 numbers them; 0xB to 0xF are never produced. -/
def errorCodes : List (ErrCode × BitVec 4) :=
  [(.none, 0x0), (.malformedContainer, 0x1), (.decryptionFailed, 0x2), (.invalidPlaintext, 0x3), (.invalidParameter, 0x4),
   (.illegalCmd, 0x5), (.badRange, 0x6), (.badLength, 0x7), (.badKeyLen, 0x8), (.overlap, 0x9), (.badPadding, 0xA)]

/-- The commands that check KEY_LEN (R117, code 8). -/
def needsKeyLen : Instr → Bool
  | .kdfKey _ | .cbcEnc | .cbcDec | .decode _ | .encode => true
  | .crcCompute | .crcUpdate | .crcVerify | .crcAppend | .kdfBuf _ | .pad | .unpad _ => false

/-- INVALID_PARAMETER is due (R117, code 4). -/
def paramError (i : Instr) (o : OperandRegs) : Bool :=
  match i with
  | .kdfBuf _ => o.kdfIter == 0 || o.outLen == 0
  | .kdfKey _ => o.kdfIter == 0
  | .crcCompute | .crcUpdate | .crcVerify | .crcAppend | .cbcEnc | .cbcDec | .pad | .unpad _ | .decode _ | .encode => false

/-- MALFORMED_CONTAINER or BAD_LENGTH is due (R117, codes 1 and 7). -/
def lengthError (i : Instr) (o : OperandRegs) : Option ErrCode :=
  let n := o.srcLen.toNat
  match i with
  | .crcVerify => if n < 4 then some .badLength else none
  | .cbcEnc | .cbcDec => if n % 16 ≠ 0 then some .badLength else none
  | .unpad _ => if n = 0 then some .badLength else none
  | .decode _ => if n ≤ 20 ∨ (n - 20) % 16 ≠ 0 then some .malformedContainer else none
  | .crcCompute | .crcUpdate | .crcAppend | .kdfBuf _ | .kdfKey _ | .pad | .encode => none

/-- The command reads the AUX region (R60, R83). -/
def usesAux : Instr → Bool
  | .kdfBuf .auxRegion | .kdfKey .auxRegion => true
  | .kdfBuf .fixedSalt | .kdfKey .fixedSalt => false
  | .crcCompute | .crcUpdate | .crcVerify | .crcAppend | .cbcEnc | .cbcDec | .pad | .unpad _ | .decode _ | .encode => false

/-- The regions a command reads: the source, and the AUX region where it is the salt (R60). -/
def sourceRegions (i : Instr) (o : OperandRegs) : List Region :=
  if usesAux i then [srcRegion o, auxRegion o] else [srcRegion o]

/-- The regions a command uses (20_memory.md R49): those it reads, then its destination at its largest length. -/
def usedRegions (i : Instr) (o : OperandRegs) : List Region := sourceRegions i o ++ (destRegion i o).toList

/-- The destination partially overlaps a source or auxiliary region (20_memory.md R50). -/
def overlapError (i : Instr) (o : OperandRegs) : Bool :=
  (destRegion i o).toList.any fun d => (sourceRegions i o).any fun r => decide (PartialOverlap d r)

/-- The error that steps 2 to 6 of R118 report for a command, in that order; `none` when its operands are in order. -/
def operandError (i : Instr) (s : State) : ErrCode :=
  let o := s.snap.regs
  if needsKeyLen i && !decide (KeyLenOk o) then .badKeyLen
  else if paramError i o then .invalidParameter
  else match lengthError i o with
    | some e => e
    | none =>
      if (usedRegions i o).any fun r => !decide (InRange s r) then .badRange
      else if overlapError i o then .overlap
      else .none

/-! ### The register columns of R60 -/

/-- Two register snapshots hold the same in every register the command reads (R60). -/
def AgreeOnReads (i : Instr) (o o' : OperandRegs) : Prop :=
  o'.srcAddr = o.srcAddr ∧ o'.srcLen = o.srcLen ∧
  (usesAux i = true → o'.auxAddr = o.auxAddr ∧ o'.auxLen = o.auxLen) ∧
  (match i with
    | .crcCompute | .crcVerify | .crcAppend => True
    | .crcUpdate => o'.crcValue = o.crcValue
    | .kdfBuf _ => o'.dstAddr = o.dstAddr ∧ o'.outLen = o.outLen ∧ o'.kdfIter = o.kdfIter
    | .kdfKey _ => o'.kdfIter = o.kdfIter ∧ o'.keyLen = o.keyLen
    | .cbcEnc | .cbcDec => o'.dstAddr = o.dstAddr ∧ o'.keyLen = o.keyLen ∧ o'.key = o.key ∧ o'.iv = o.iv
    | .pad | .unpad _ => o'.dstAddr = o.dstAddr
    | .decode _ | .encode => o'.dstAddr = o.dstAddr ∧ o'.keyLen = o.keyLen ∧ o'.key = o.key)

/-- The commands with a W in R60's CRC_VALUE column. -/
def writesCrcValue : Instr → Bool
  | .crcCompute | .crcUpdate | .crcVerify | .crcAppend | .decode _ | .encode => true
  | .kdfBuf _ | .kdfKey _ | .cbcEnc | .cbcDec | .pad | .unpad _ => false

/-- The commands with a W in R60's KEY column. -/
def writesKey : Instr → Bool
  | .kdfKey _ => true
  | .crcCompute | .crcUpdate | .crcVerify | .crcAppend | .kdfBuf _ | .cbcEnc | .cbcDec | .pad | .unpad _ | .decode _ | .encode => false

/-- The commands with a W in R60's IV column. -/
def writesIv : Instr → Bool
  | .encode => true
  | .crcCompute | .crcUpdate | .crcVerify | .crcAppend | .kdfBuf _ | .kdfKey _ | .cbcEnc | .cbcDec | .pad | .unpad _ | .decode _ => false

/-- The commands with a W in R60's CHK_WARN column. -/
def writesChkWarn : Instr → Bool
  | .crcVerify | .decode _ => true
  | .crcCompute | .crcUpdate | .crcAppend | .kdfBuf _ | .kdfKey _ | .cbcEnc | .cbcDec | .pad | .unpad _ | .encode => false

/-! ### The invariant -/

/-- A BUF is in its canonical form and lists no offset outside BUF_SIZE. -/
def BufOk (n : Nat) (b : Buf) : Prop := Memory.wf b.cells = true ∧ Memory.below n b.cells = true

/-- While a command runs: STATUS shows no result, DST_LEN is 0, CMDL is CMD, and the snapshot equals the live values
(10_state.md R19, R27; 30_encoding.md R61). -/
def BusyOk (s : State) : Prop :=
  s.eng = .busy →
    s.done = false ∧ s.chkWarn = false ∧ s.errCode = .none ∧ s.dstLen = 0 ∧ s.cmdl = s.cmd ∧ s.snap = takeSnapshot s

/-- While `rst_n` is asserted every register holds its reset value and the engine is IDLE (70_reset_and_hazards.md R134). -/
def ResetOk (s : State) : Prop :=
  s.inReset = true → s.eng = .idle ∧ s.irqEn = false ∧ s.cmd = 0 ∧ s.regs = resetRegs ∧ s.dstLen = 0 ∧ statusWord s = 0

/-- The invariant of the machine; its last clause is 10_state.md R27: DST_LEN "stays 0 when a command ends with an error". -/
def Inv (s : State) : Prop :=
  BufOk (bufSize s) s.buf ∧ BufOk (bufSize s) s.snap.buf ∧ BusyOk s ∧ ResetOk s ∧ (s.errCode ≠ .none → s.dstLen = 0)

/-! ### The host's side -/

/-- An offset at which nothing lies (10_state.md R34, 20_memory.md R41). -/
abbrev ReservedOffset (s : State) (off : Offset) : Prop :=
  off.toNat = 0x03C ∨ (0x070 ≤ off.toNat ∧ off.toNat ≤ 0xFFC) ∨ (0x1000 ≤ off.toNat ∧ off.toNat ≤ 0x00FFFFFF) ∨
    0x01000000 + bufSize s ≤ off.toNat

/-- The next input is a host access. -/
def nextIsAccess (s : State) : Bool :=
  match s.inputs with
  | .read _ _ :: _ => true
  | .write _ _ _ :: _ => true
  | _ => false

/-- The next input is a host write. -/
def nextIsWrite (s : State) : Bool :=
  match s.inputs with
  | .write _ _ _ :: _ => true
  | _ => false

/-- The engine has the next move. -/
def engineMoves (s : State) : Bool :=
  match s.inputs with
  | [] => true
  | .engineTurn :: _ => true
  | _ => false

/-- The next input is a write of register `r`. -/
def nextWrites (s : State) (r : RegName) (v : Word) : Prop :=
  ∃ off rest, s.inputs = .write off .word v :: rest ∧ off.toNat = regOffset r

/-- A host may use the destination of the last command: it completed, with ERRCODE = 0 (60_exceptions.md R123). -/
def OutputUsable (s : State) : Prop := s.eng = .idle ∧ s.done = true ∧ s.errCode = .none

end Sys2Proof.Machine
end

