-- ==== Sys2Proof/Certificates/Slice0/Obligations.lean ====
section
/-! DEFINITION. The statements for the provers. Each docstring names the rule of spec/ it comes from; OBLIGATIONS.json lists them.
`s.snap` is the snapshot a command reads (10_state.md R19); `t` is the state a command or a step leaves. -/

open Sys2Proof Sys2Proof.Machine

/-! ### Decoding, encoding, and what a step runs -/

/-- A word decodes to a command exactly when it is that command's word (30_encoding.md sections 1 to 3): for all 2^32 words. -/
def Obligations.DecodeAndEncodeAgree : Prop :=
  ∀ (v : Word) (i : Instr), decode v = .ok i ↔ encode i = v

/-- The decoder accepts exactly the sixteen words that 30_encoding.md R59 lists. -/
def Obligations.DecodableWordsAreTheListedWords : Prop :=
  ∀ v : Word, (∃ i, decode v = .ok i) ↔ wordWellFormed v = true

/-- R64: an illegal word is accepted like any other and its execution completes with ILLEGAL_CMD, DST_LEN = 0 and no other state
changed. -/
def Obligations.IllegalWordIsAcceptedAndFails : Prop :=
  ∀ (s : State) (v : Word), s.eng = .idle → s.inReset = false → s.inputs = [.write 0x00C .word v] →
    wordWellFormed v = false →
    ∃ t u, step s = .next t ∧ t.eng = .busy ∧ t.cmd = v ∧ step t = .next u ∧
      u.eng = .idle ∧ u.done = true ∧ u.errCode = .illegalCmd ∧ u.dstLen = 0 ∧ u.chkWarn = false ∧ u.cmd = v ∧
      u.regs = s.regs ∧ u.irqEn = s.irqEn ∧ u.overrun = s.overrun ∧ u.accessErr = s.accessErr ∧ u.bufSel = s.bufSel ∧
      BufKept s u ∧ FreeKept s u

/-- Words written out from R57 and R59, and the check of R63 that each illegal word fails. -/
def Obligations.SampleWordsDecode : Prop :=
  decode 0x00000004 = .ok .crcAppend ∧ decode 0x00000110 = .ok (.kdfBuf .fixedSalt) ∧
  decode 0x00000011 = .ok (.kdfKey .auxRegion) ∧ decode 0x00000020 = .ok .cbcEnc ∧
  decode 0x00000223 = .ok (.unpad .strict) ∧ decode 0x00000030 = .ok (.decode .lenient) ∧
  decode 0x00000031 = .ok .encode ∧
  decode 0x00000000 = .error .undefinedOpcode ∧ decode 0x00000401 = .error .reservedBits ∧
  decode 0x00000130 = .error .saltSelNotAllowed ∧ decode 0x00000310 = .error .strictNotAllowed

/-- A step in which the engine moves runs the command its latched word decodes to, and `withFetchWord` brings about such a step. -/
def Obligations.StepRunsTheDecodedCommand : Prop :=
  (∀ (s : State) (i : Instr), s.eng = .busy → decode s.cmdl = .ok i →
    (s.inputs = [] → step s = exec i s) ∧
    (∀ rest, s.inputs = .engineTurn :: rest → step s = exec i { s with inputs := rest })) ∧
  ∀ (s : State) (i : Instr),
    step (s.withFetchWord 32 (encode i).toNat) = exec i (s.withFetchWord 32 (encode i).toNat)

/-- Acceptance (R61): what a host write of CMD while IDLE does. -/
def Obligations.CmdWriteIsAccepted : Prop :=
  ∀ (s : State) (v : Word) (rest : List HostInput),
    s.eng = .idle → s.inReset = false → s.inputs = .write 0x00C .word v :: rest →
    ∃ t, step s = .next t ∧ t.cmd = v ∧ t.cmdl = v ∧ t.done = false ∧ t.chkWarn = false ∧ t.errCode = .none ∧
      t.dstLen = 0 ∧ t.snap = ⟨s.regs, s.buf⟩ ∧ t.eng = .busy ∧ t.overrun = s.overrun ∧ t.accessErr = s.accessErr ∧
      t.irqEn = s.irqEn ∧ t.regs = s.regs ∧ t.buf = s.buf ∧ t.bufSel = s.bufSel ∧ t.inReset = false ∧
      t.resp = .written ∧ t.inputs = rest ∧ FreeKept s t

/-! ### The twelve commands: where each completes, its result and its frame -/

/-- CRC_COMPUTE (R74). -/
def Obligations.CrcComputeCompletes : Prop :=
  ∀ s : State, InRange s (srcRegion s.snap.regs) →
    ∃ t, exec .crcCompute s = .next t ∧ CompletedWith s t .none 0 ∧
      t.regs = { s.regs with
        crcValue := crcFold Config.crcPolyG Config.crcSeedS (memRead s (srcRegion s.snap.regs)) } ∧
      t.chkWarn = s.chkWarn ∧ BufKept s t ∧ FreeKept s t

/-- CRC_UPDATE (R75). -/
def Obligations.CrcUpdateCompletes : Prop :=
  ∀ s : State, InRange s (srcRegion s.snap.regs) →
    ∃ t, exec .crcUpdate s = .next t ∧ CompletedWith s t .none 0 ∧
      t.regs = { s.regs with
        crcValue := crcFold Config.crcPolyG s.snap.regs.crcValue (memRead s (srcRegion s.snap.regs)) } ∧
      t.chkWarn = s.chkWarn ∧ BufKept s t ∧ FreeKept s t

/-- CRC_VERIFY (R76, R73): a mismatch sets CHK_WARN and is no error. -/
def Obligations.CrcVerifyCompletes : Prop :=
  ∀ s : State, 4 ≤ s.snap.regs.srcLen.toNat → InRange s (srcRegion s.snap.regs) →
    let n := s.snap.regs.srcLen.toNat - 4
    let data := memRead s (srcRegion s.snap.regs)
    let computed := crcFold Config.crcPolyG Config.crcSeedS (data.take n)
    ∃ t, exec .crcVerify s = .next t ∧ CompletedWith s t .none 0 ∧
      t.regs = { s.regs with crcValue := computed } ∧
      t.chkWarn = (s.chkWarn || decide (computed ≠ fromLE32 (data.drop n))) ∧ BufKept s t ∧ FreeKept s t

/-- CRC_APPEND (R77): the trailer goes right after the source, little-endian. -/
def Obligations.CrcAppendCompletes : Prop :=
  ∀ s : State, s.snap.regs.srcAddr.toNat + s.snap.regs.srcLen.toNat + 4 ≤ bufSize s →
    let c := crcFold Config.crcPolyG Config.crcSeedS (memRead s (srcRegion s.snap.regs))
    ∃ t, exec .crcAppend s = .next t ∧ CompletedWith s t .none 4 ∧
      t.regs = { s.regs with crcValue := c } ∧ t.chkWarn = s.chkWarn ∧
      BufStored s t (s.snap.regs.srcAddr.toNat + s.snap.regs.srcLen.toNat) (le32 c) ∧ FreeKept s t

/-- KDF_BUF (R84, R83), with either salt: OUT_LEN derived bytes at DST_ADDR. -/
def Obligations.KdfBufCompletes : Prop :=
  ∀ (salt : SaltSel) (s : State),
    let o := s.snap.regs
    let dst := dstRegion o o.outLen.toNat
    o.kdfIter ≠ 0 → o.outLen ≠ 0 → InRange s (srcRegion o) → InRange s dst → ¬PartialOverlap dst (srcRegion o) →
    (salt = .auxRegion → InRange s (auxRegion o) ∧ ¬PartialOverlap dst (auxRegion o)) →
    let saltBytes := match salt with
      | .auxRegion => memRead s (auxRegion o)
      | .fixedSalt => Config.fixedSalt
    let k := kdf sha1 (memRead s (srcRegion o)) saltBytes o.kdfIter.toNat o.outLen.toNat
    k.length = o.outLen.toNat ∧
    ∃ t, exec (.kdfBuf salt) s = .next t ∧ CompletedWith s t .none o.outLen.toNat ∧
      t.regs = s.regs ∧ t.chkWarn = s.chkWarn ∧ BufStored s t o.dstAddr.toNat k ∧ FreeKept s t

/-- KDF_KEY (R85, R83), with either salt: the key file holds the derived key, zero beyond KEY_LEN. -/
def Obligations.KdfKeyCompletes : Prop :=
  ∀ (salt : SaltSel) (s : State),
    let o := s.snap.regs
    KeyLenOk o → o.kdfIter ≠ 0 → InRange s (srcRegion o) → (salt = .auxRegion → InRange s (auxRegion o)) →
    let saltBytes := match salt with
      | .auxRegion => memRead s (auxRegion o)
      | .fixedSalt => Config.fixedSalt
    let k := kdf sha1 (memRead s (srcRegion o)) saltBytes o.kdfIter.toNat o.keyLen.toNat
    k.length = o.keyLen.toNat ∧
    ∃ t, exec (.kdfKey salt) s = .next t ∧ CompletedWith s t .none o.keyLen.toNat ∧
      keyFileBytes t.regs.key = k ++ rep (32 - o.keyLen.toNat) 0x00 ∧
      t.regs = { s.regs with key := t.regs.key } ∧ t.chkWarn = s.chkWarn ∧ BufKept s t ∧ FreeKept s t

/-- CBC_ENC (R94): in place or disjoint; the IV registers are not changed. -/
def Obligations.CbcEncCompletes : Prop :=
  ∀ s : State,
    let o := s.snap.regs
    let dst := dstRegion o o.srcLen.toNat
    KeyLenOk o → o.srcLen.toNat % 16 = 0 → InRange s (srcRegion o) → InRange s dst → ¬PartialOverlap dst (srcRegion o) →
    let c := cbcEnc (keyBytes o) (ivBytes o) (memRead s (srcRegion o))
    c.length = o.srcLen.toNat ∧
    ∃ t, exec .cbcEnc s = .next t ∧ CompletedWith s t .none o.srcLen.toNat ∧
      t.regs = s.regs ∧ t.chkWarn = s.chkWarn ∧ BufStored s t o.dstAddr.toNat c ∧ FreeKept s t

/-- CBC_DEC (R95). -/
def Obligations.CbcDecCompletes : Prop :=
  ∀ s : State,
    let o := s.snap.regs
    let dst := dstRegion o o.srcLen.toNat
    KeyLenOk o → o.srcLen.toNat % 16 = 0 → InRange s (srcRegion o) → InRange s dst → ¬PartialOverlap dst (srcRegion o) →
    let p := cbcDec (keyBytes o) (ivBytes o) (memRead s (srcRegion o))
    p.length = o.srcLen.toNat ∧
    ∃ t, exec .cbcDec s = .next t ∧ CompletedWith s t .none o.srcLen.toNat ∧
      t.regs = s.regs ∧ t.chkWarn = s.chkWarn ∧ BufStored s t o.dstAddr.toNat p ∧ FreeKept s t

/-- PAD (R96, R87): the source, then `k` bytes of value `k`. -/
def Obligations.PadCompletes : Prop :=
  ∀ s : State,
    let o := s.snap.regs
    let k := 16 - o.srcLen.toNat % 16
    let dst := dstRegion o (o.srcLen.toNat + k)
    InRange s (srcRegion o) → InRange s dst → ¬PartialOverlap dst (srcRegion o) →
    ∃ t, exec .pad s = .next t ∧ CompletedWith s t .none (o.srcLen.toNat + k) ∧
      t.regs = s.regs ∧ t.chkWarn = s.chkWarn ∧
      BufStored s t o.dstAddr.toNat (memRead s (srcRegion o) ++ rep k (BitVec.ofNat 8 k)) ∧ FreeKept s t

/-- UNPAD (R97, R88), lenient or strict: only the bytes kept are written. -/
def Obligations.UnpadCompletes : Prop :=
  ∀ (mode : PadMode) (s : State),
    let o := s.snap.regs
    let dst := dstRegion o o.srcLen.toNat
    let d := memRead s (srcRegion o)
    0 < o.srcLen.toNat → InRange s (srcRegion o) → InRange s dst → ¬PartialOverlap dst (srcRegion o) →
    (mode = .strict → PadValid d) →
    let n := o.srcLen.toNat - (byteAt d (o.srcLen.toNat - 1)).toNat
    ∃ t, exec (.unpad mode) s = .next t ∧ CompletedWith s t .none n ∧
      t.regs = s.regs ∧ t.chkWarn = s.chkWarn ∧ BufStored s t o.dstAddr.toNat (d.take n) ∧ FreeKept s t

/-- DECODE (R100), lenient or strict: the checksum of step 1 in CRC_VALUE and CHK_WARN, the unpadded plaintext at DST_ADDR. -/
def Obligations.DecodeCompletes : Prop :=
  ∀ (mode : PadMode) (s : State),
    let o := s.snap.regs
    let n := o.srcLen.toNat - 20
    let dst := dstRegion o n
    let c := memRead s (srcRegion o)
    let d := cbcDec (keyBytes o) (c.take 16) ((c.drop 16).take n)
    KeyLenOk o → 20 < o.srcLen.toNat → n % 16 = 0 → InRange s (srcRegion o) → InRange s dst →
    ¬PartialOverlap dst (srcRegion o) → (mode = .strict → PadValid d) → Config.structuredValid (unpadL d) = true →
    let computed := crcFold Config.crcPolyG Config.crcSeedS (c.take (n + 16))
    ∃ t, exec (.decode mode) s = .next t ∧ CompletedWith s t .none (unpadL d).length ∧
      t.regs = { s.regs with crcValue := computed } ∧
      t.chkWarn = (s.chkWarn || decide (computed ≠ fromLE32 (c.drop (n + 16)))) ∧
      BufStored s t o.dstAddr.toNat (unpadL d) ∧ FreeKept s t

/-- ENCODE (R101): for whatever 16 bytes the random source draws, the container of the plaintext at DST_ADDR, the IV in the IV file,
the checksum in CRC_VALUE, and one draw taken. -/
def Obligations.EncodeCompletes : Prop :=
  ∀ s : State,
    let o := s.snap.regs
    let n := o.srcLen.toNat
    let k := 16 - n % 16
    let dst := dstRegion o (16 + n + k + 4)
    let p := memRead s (srcRegion o)
    KeyLenOk o → InRange s (srcRegion o) → InRange s dst → ¬PartialOverlap dst (srcRegion o) →
    Config.structuredValid p = true →
    let iv := nextDraw s
    let body := iv ++ cbcEnc (keyBytes o) iv (p ++ rep k (BitVec.ofNat 8 k))
    let c := crcFold Config.crcPolyG Config.crcSeedS body
    (body ++ le32 c).length = 16 + n + k + 4 ∧
    ∃ t, exec .encode s = .next t ∧ CompletedWith s t .none (16 + n + k + 4) ∧
      ivBytes t.regs = iv ∧ t.regs = { s.regs with crcValue := c, iv := t.regs.iv } ∧ t.chkWarn = s.chkWarn ∧
      BufStored s t o.dstAddr.toNat (body ++ le32 c) ∧ t.ivDraws = s.ivDraws + 1 ∧ t.unspecCount = s.unspecCount

/-! ### Errors and completion -/

/-- Steps 2 to 6 of R118, for every command: the error that the table `operandError` gives is the one reported, and it leaves every
register except STATUS and DST_LEN, and all of BUF, unchanged; with none, only a data-dependent error of step 7 is left. -/
def Obligations.OperandErrorsAreReportedInOrder : Prop :=
  ∀ (i : Instr) (s : State),
    (operandError i s ≠ .none → ∃ t, exec i s = .next t ∧ FailedWith s t (operandError i s)) ∧
    (operandError i s = .none → ∃ t, exec i s = .next t ∧
      (t.errCode = .none ∨ (i = .encode ∧ t.errCode = .invalidPlaintext) ∨
        (i = .unpad .strict ∧ t.errCode = .badPadding) ∨ (∃ m, i = .decode m ∧ t.errCode = .decryptionFailed)))

/-- DECODE's late failure (R100): CRC_VALUE and CHK_WARN hold the step 1 result, DST_LEN = 0, no byte outside the `N` destination
bytes changes, and nothing is said of those. -/
def Obligations.DecodeLateFailure : Prop :=
  ∀ (mode : PadMode) (s : State),
    let o := s.snap.regs
    let n := o.srcLen.toNat - 20
    let dst := dstRegion o n
    let c := memRead s (srcRegion o)
    let d := cbcDec (keyBytes o) (c.take 16) ((c.drop 16).take n)
    operandError (.decode mode) s = .none →
    (mode = .strict ∧ ¬PadValid d) ∨ Config.structuredValid (unpadL d) = false →
    let computed := crcFold Config.crcPolyG Config.crcSeedS (c.take (n + 16))
    ∃ t, exec (.decode mode) s = .next t ∧ CompletedWith s t .decryptionFailed 0 ∧
      t.regs = { s.regs with crcValue := computed } ∧
      t.chkWarn = (s.chkWarn || decide (computed ≠ fromLE32 (c.drop (n + 16)))) ∧
      BufKeptOutside s t dst ∧ t.ivDraws = s.ivDraws

/-- The other data-dependent errors: UNPAD.STRICT with padding that is not valid (R97), and ENCODE of a plaintext that is not
StructuredValid (R101), which takes no draw; neither changes anything but STATUS and DST_LEN. The verdict on the plaintext is a case of
the second conclusion, since it is open for every plaintext but one (log 8). -/
def Obligations.DataErrorsChangeNothing : Prop :=
  (∀ s : State, operandError (.unpad .strict) s = .none → ¬PadValid (memRead s (srcRegion s.snap.regs)) →
    ∃ t, exec (.unpad .strict) s = .next t ∧ FailedWith s t .badPadding) ∧
  ∀ s : State, operandError .encode s = .none →
    ∃ t, exec .encode s = .next t ∧
      if Config.structuredValid (memRead s (srcRegion s.snap.regs)) then t.errCode = .none ∧ t.ivDraws = s.ivDraws + 1
      else FailedWith s t .invalidPlaintext

/-- Every command ends in a completion (R120): ENG = IDLE, STATUS.BUSY = 0, STATUS.DONE = 1, in one step, and what no command writes is
unchanged. -/
def Obligations.EveryCommandEndsInACompletion : Prop :=
  ∀ (i : Instr) (s : State), ∃ t, exec i s = .next t ∧ t.eng = .idle ∧ t.done = true ∧
    (statusWord t).getLsbD 0 = false ∧ (statusWord t).getLsbD 1 = true ∧ Untouched s t

/-- What a failed command leaves for the host (R122), its code as R117 numbers it, CRC_VALUE after DECRYPTION_FAILED apart (R100; log 21). -/
def Obligations.FailedCommandLeavesItsCode : Prop :=
  ∀ (i : Instr) (s t : State), exec i s = .next t → t.errCode ≠ .none →
    t.cmd = s.cmd ∧ (t.errCode, (statusWord t).extractLsb' 8 4) ∈ errorCodes ∧ (statusWord t).getLsbD 2 = true ∧ t.dstLen = 0 ∧
      t.regs = { s.regs with crcValue := t.regs.crcValue } ∧
      (t.errCode ≠ .decryptionFailed → t.regs = s.regs ∧ BufKept s t)

/-- Bytes of BUF outside the destination region of the command keep their values (20_memory.md R51). -/
def Obligations.CommandWritesOnlyItsDestination : Prop :=
  ∀ (i : Instr) (s t : State) (a : Nat), exec i s = .next t →
    (∀ r, destRegion i s.snap.regs = some r → ¬r.has a) → bufByte t.buf a = bufByte s.buf a

/-- The W columns of R60: which commands may change CRC_VALUE, KEY, IV and CHK_WARN, and that none changes another operand register;
only ENCODE takes a draw. -/
def Obligations.CommandsWriteOnlyTheirRegisters : Prop :=
  ∀ (i : Instr) (s t : State), exec i s = .next t →
    t.regs = { s.regs with crcValue := t.regs.crcValue, key := t.regs.key, iv := t.regs.iv } ∧
    (writesCrcValue i = false → t.regs.crcValue = s.regs.crcValue) ∧
    (writesKey i = false → t.regs.key = s.regs.key) ∧
    (writesIv i = false → t.regs.iv = s.regs.iv ∧ t.ivDraws = s.ivDraws) ∧
    (writesChkWarn i = false → t.chkWarn = s.chkWarn)

/-- The R columns of R60: "A register a command does not read may hold any value; its value does not affect the command." -/
def Obligations.UnreadRegistersDoNotAffectTheCommand : Prop :=
  ∀ (i : Instr) (s t : State) (o' : OperandRegs), AgreeOnReads i s.snap.regs o' → exec i s = .next t →
    exec i { s with snap := ⟨o', s.snap.buf⟩ } = .next { t with snap := ⟨o', s.snap.buf⟩ }

/-! ### The checksum -/

/-- Consequences of R69 and R70 for every generator: the table's two entries, its linearity, chunking, and the one-byte folds. -/
def Obligations.CrcTableAndFoldLaws : Prop :=
  ∀ g : Word,
    crcTable g 0x00 = 0 ∧ crcTable g 0x80 = g ∧
    (∀ i j : Byte, crcTable g (i ^^^ j) = crcTable g i ^^^ crcTable g j) ∧
    (∀ (st : Word) (a b : Bytes), crcFold g (crcFold g st a) b = crcFold g st (a ++ b)) ∧
    (∀ st : Word, crcFold g st [st.extractLsb' 0 8] = st >>> 8 ∧
      crcFold g st [st.extractLsb' 0 8 ^^^ 0x80] = (st >>> 8) ^^^ g)

/-- With bit 31 of the generator set, changing one byte always changes the checksum (95_test_vectors.md X2's derived form). -/
def Obligations.SingleByteChangeIsDetected : Prop :=
  ∀ (g st : Word) (before after : Bytes) (x y : Byte), g.getLsbD 31 = true →
    crcFold g st (before ++ x :: after) = crcFold g st (before ++ y :: after) → x = y

/-- After CRC_APPEND, CRC_VERIFY over the source and its trailer reports no mismatch (40_checksum.md, CRC_APPEND's corner cases). -/
def Obligations.AppendedTrailerVerifies : Prop :=
  ∀ s t u : State, s.snap.buf = s.buf → exec .crcAppend s = .next t → t.errCode = .none →
    u.bufSel = s.bufSel → u.snap.buf = t.buf → u.snap.regs.srcAddr = s.snap.regs.srcAddr →
    u.snap.regs.srcLen.toNat = s.snap.regs.srcLen.toNat + 4 →
    ∃ w, exec .crcVerify u = .next w ∧ w.errCode = .none ∧ w.chkWarn = u.chkWarn ∧ w.regs.crcValue = t.regs.crcValue

/-! ### The KDF -/

/-- For every hash of 20-byte digests, the KDF returns exactly `n` bytes and a longer output extends a shorter one. -/
def Obligations.KdfLengthAndPrefix : Prop :=
  ∀ H : Bytes → Bytes, (∀ m, (H m).length = 20) → ∀ (secret salt : Bytes) (iterations n k : Nat), 1 ≤ iterations → 1 ≤ n →
    (kdf H secret salt iterations n).length = n ∧
    kdf H secret salt iterations n = (kdf H secret salt iterations (n + k)).take n

/-- What the KDF's bytes are (41_kdf.md R80), `D` the base digest, `H` applied `iterations` times: the outputs of up to 60 bytes spelt
out, and of every length each 20-byte block after the first, the last cut to `n`. A block's counter is written as 00_scope.md R10 says:
its decimal digits, without leading zeros. -/
def Obligations.KdfShortOutputs : Prop :=
  (∀ j, 1 ≤ j → (asciiDec j).foldl (fun a d => 10 * a + (d.toNat - 0x30)) 0 = j ∧
    (∀ d ∈ asciiDec j, 0x30 ≤ d.toNat ∧ d.toNat ≤ 0x39) ∧ (asciiDec j).head? ≠ some 0x30) ∧
  ∀ H : Bytes → Bytes, (∀ m, (H m).length = 20) → ∀ (secret salt : Bytes) (iterations n : Nat), 1 ≤ iterations → 1 ≤ n →
    let D := H^[iterations] (secret ++ salt)
    let k := kdf H secret salt iterations n
    (n ≤ 20 → k = D.take n) ∧
    (20 < n → n ≤ 40 → k = D ++ (H (0x31 :: D)).take (n - 20)) ∧
    (40 < n → n ≤ 60 → k = D ++ H (0x31 :: D) ++ (H (0x32 :: D)).take (n - 40)) ∧
    k.take 20 = D.take n ∧
    (∀ j, 1 ≤ j → 20 * j + 20 ≤ n → (k.drop (20 * j)).take 20 = H (asciiDec j ++ D)) ∧
    ∀ j, 1 ≤ j → 20 * j < n → n < 20 * j + 20 → k.drop (20 * j) = (H (asciiDec j ++ D)).take (n - 20 * j)

/-! ### Padding and CBC -/

/-- PAD (R87) and its two inverses (42_cipher.md section 2, consequences). -/
def Obligations.PadThenUnpadIsIdentity : Prop :=
  ∀ p : Bytes, (padBytes p).length % 16 = 0 ∧ p.length + 1 ≤ (padBytes p).length ∧ (padBytes p).length ≤ p.length + 16 ∧
    unpadL (padBytes p) = p ∧ unpadS (padBytes p) = some p

/-- Strict padding is valid exactly for the byte strings that PAD produces (R87, R89). -/
def Obligations.StrictPaddingIsExactlyPad : Prop :=
  ∀ d u : Bytes, unpadS d = some u ↔ d = padBytes u

/-- R113: the cipher and the inverse cipher are inverse to each other, for each key length and every block. -/
def Obligations.AesInverts : Prop :=
  ∀ k b : Bytes, k.length = 16 ∨ k.length = 24 ∨ k.length = 32 → b.length = 16 →
    aesDec k (aesEnc k b) = b ∧ aesEnc k (aesDec k b) = b

/-- CBC decryption undoes CBC encryption, and both keep the length (42_cipher.md section 2, consequences). -/
def Obligations.CbcInverts : Prop :=
  ∀ k iv p : Bytes, k.length = 16 ∨ k.length = 24 ∨ k.length = 32 → iv.length = 16 → p.length % 16 = 0 →
    (cbcEnc k iv p).length = p.length ∧ cbcDec k iv (cbcEnc k iv p) = p ∧ cbcEnc k iv (cbcDec k iv p) = p

/-- A host continues a CBC chain by taking the last ciphertext block as the next IV (42_cipher.md, CBC_ENC's corner cases). -/
def Obligations.CbcChainsThroughTheLastBlock : Prop :=
  ∀ k iv p q : Bytes, k.length = 16 ∨ k.length = 24 ∨ k.length = 32 → iv.length = 16 →
    p.length % 16 = 0 → 0 < p.length → q.length % 16 = 0 →
    cbcEnc k iv (p ++ q) =
      cbcEnc k iv p ++ cbcEnc k ((cbcEnc k iv p).drop (p.length - 16)) q

/-- Block `j` of a CBC decryption is made of ciphertext blocks `j` and `j - 1` alone, the IV standing before the first (R92). -/
def Obligations.CbcDecryptsBlockByBlock : Prop :=
  ∀ (k iv c : Bytes) (j : Nat), k.length = 16 ∨ k.length = 24 ∨ k.length = 32 → iv.length = 16 →
    c.length % 16 = 0 → 16 * j < c.length →
    ((cbcDec k iv c).drop (16 * j)).take 16 =
      xorBytes (aesDec k ((c.drop (16 * j)).take 16)) (((iv ++ c).drop (16 * j)).take 16)

/-! ### The container -/

/-- The source's round trip on the machine: DECODE, in either mode, of what ENCODE wrote, with the same key, completes with no error,
no warning, and the plaintext (43_container.md section 2, consequences). -/
def Obligations.ContainerRoundTrip : Prop :=
  ∀ (mode : PadMode) (s t u : State), exec .encode s = .next t → t.errCode = .none →
    u.bufSel = s.bufSel → u.snap.buf = t.buf → u.snap.regs.key = s.snap.regs.key →
    u.snap.regs.keyLen = s.snap.regs.keyLen → u.snap.regs.srcAddr = s.snap.regs.dstAddr → u.snap.regs.srcLen = t.dstLen →
    InRange u (dstRegion u.snap.regs (t.dstLen.toNat - 20)) →
    ¬PartialOverlap (dstRegion u.snap.regs (t.dstLen.toNat - 20)) (srcRegion u.snap.regs) →
    let p := memRead s (srcRegion s.snap.regs)
    ∃ w, exec (.decode mode) u = .next w ∧ CompletedWith u w .none p.length ∧ w.chkWarn = u.chkWarn ∧
      w.regs.crcValue = t.regs.crcValue ∧ BufStored u w u.snap.regs.dstAddr.toNat p

/-! ### Registers and the host port -/

/-- R33: the byte order of the KEY and IV files; a key copied word by word, little-endian, lands in its own byte order; the rule's
example. -/
def Obligations.RegisterFileByteOrder : Prop :=
  (∀ (k : Vector Word 8) (i : Fin 32), byteAt (keyFileBytes k) i.val = (k[i.val / 4]).extractLsb' (8 * (i.val % 4)) 8) ∧
  (∀ (o : OperandRegs) (i : Fin 16), byteAt (ivBytes o) i.val = (o.iv[i.val / 4]).extractLsb' (8 * (i.val % 4)) 8) ∧
  (∀ (b : Bytes) (k : Vector Word 8), b.length = 32 → (∀ j : Fin 8, k[j] = fromLE32 ((b.drop (4 * j.val)).take 4)) →
    keyFileBytes k = b) ∧
  ∀ k : Vector Word 8, k[0] = 0x9111E31D → (keyFileBytes k).take 4 = [0x1D, 0xE3, 0x11, 0x91]

/-- R22 and R23: what ID and CAPS hold, BUF_LOG2 with the size BUF has, and that no step changes them. Writes of ID, CAPS and DST_LEN
(R27) are ignored, and at the reserved offsets (R34, R41) a write changes no state. The model's reading of the rules for writes while
BUSY (log 15): the first set ACCESS_ERR, the second do not. -/
def Obligations.IdAndCapsAreConstant : Prop :=
  (∀ s : State, regWord s .id = 0x4F433201 ∧
    2 ^ ((regWord s .caps).extractLsb' 0 5).toNat = bufSize s ∧
    12 ≤ ((regWord s .caps).extractLsb' 0 5).toNat ∧ ((regWord s .caps).extractLsb' 0 5).toNat ≤ 24 ∧
    (regWord s .caps).extractLsb' 5 4 = 0xF ∧ (regWord s .caps).extractLsb' 9 23 = 0) ∧
  (∀ s t : State, step s = .next t → regWord t .id = regWord s .id ∧ regWord t .caps = regWord s .caps) ∧
  ∀ (s : State) (off : Offset) (w : Width) (v : Word) (rest : List HostInput),
    s.inReset = false → s.inputs = .write off w v :: rest → accessWellFormed off w = true →
    (off.toNat = 0x000 ∨ off.toNat = 0x004 ∨ off.toNat = 0x02C →
      step s = .next { s with inputs := rest, resp := .written, accessErr := s.accessErr || decide (s.eng = .busy) }) ∧
    (ReservedOffset s off → step s = .next { s with inputs := rest, resp := .written })

/-- An access that R43 does not allow is answered with a bus error and changes no state of the block (R44). That the machine goes on
after it is the model's reading (log 13). -/
def Obligations.BadAccessIsABusError : Prop :=
  ∀ (s : State) (off : Offset) (w : Width) (v : Word) (rest : List HostInput),
    s.inReset = false → accessWellFormed off w = false →
    s.inputs = .read off w :: rest ∨ s.inputs = .write off w v :: rest →
    step s = .next { s with inputs := rest, resp := .busError }

/-- The BUF window (R41, R45): a write of each width stores its bytes lowest first and changes nothing else, and what was written
reads back at every width and offset inside it. The model's choice (log 18): a narrow write takes the low bytes of `v`, and the bits of
the answer above a narrow read are 0. -/
def Obligations.BufWindowIsLittleEndian : Prop :=
  ∀ (s : State) (a : Nat) (off : Offset) (w : Width) (v : Word) (rest : List HostInput),
    s.eng = .idle → s.inReset = false → s.inputs = .write off w v :: rest →
    off.toNat = 0x01000000 + a → a % w.bytes = 0 → a + w.bytes ≤ bufSize s →
    ∃ t, step s = .next t ∧ t = { s with inputs := rest, buf := t.buf, resp := .written } ∧
      BufStored s t a ((List.range w.bytes).map fun i => v.extractLsb' (8 * i) 8) ∧
      ∀ (b : Nat) (r : Width), a ≤ b → b + r.bytes ≤ a + w.bytes → b % r.bytes = 0 →
        (busRead t (BitVec.ofNat 25 (0x01000000 + b)) r).resp =
          .data ((v.extractLsb' (8 * (b - a)) (8 * r.bytes)).setWidth 32)

/-- R62: a write of CMD while BUSY is dropped and sets OVERRUN. -/
def Obligations.CmdWriteWhileBusyIsDropped : Prop :=
  ∀ (s : State) (v : Word) (rest : List HostInput), s.eng = .busy → s.inReset = false →
    s.inputs = .write 0x00C .word v :: rest →
    step s = .next { s with inputs := rest, overrun := true, resp := .written }

/-- R47, writes: while BUSY a write of an operand register, KEY, IV, CRC_VALUE or the BUF window changes nothing but ACCESS_ERR. R24: a
write of CTRL without SOFT_RESET, while BUSY or IDLE, sets IRQ_EN, the one bit that CTRL then shows, and changes nothing else. -/
def Obligations.WritesWhileBusyAreDropped : Prop :=
  ∀ (s : State) (off : Offset) (w : Width) (v : Word) (rest : List HostInput), s.inReset = false →
    s.inputs = .write off w v :: rest → accessWellFormed off w = true →
    (s.eng = .busy →
      (∃ r, off.toNat = regOffset r ∧ r ∉ [.id, .caps, .ctrl, .cmd, .status, .dstLen]) ∨
        (0x01000000 ≤ off.toNat ∧ off.toNat < 0x01000000 + bufSize s) →
      step s = .next { s with inputs := rest, accessErr := true, resp := .written }) ∧
    (off.toNat = 0x008 → v.getLsbD 1 = false →
      ∃ t, step s = .next t ∧ t = { s with inputs := rest, irqEn := v.getLsbD 0, resp := .written } ∧ regWord t .ctrl = v &&& 1)

/-- R47, reads: while BUSY, a read of DST_LEN, CRC_VALUE, KEY, IV or the BUF window returns some value, any other register its own, and
no state of the block changes. -/
def Obligations.ReadsWhileBusy : Prop :=
  ∀ (s : State) (off : Offset) (w : Width) (rest : List HostInput), s.eng = .busy → s.inReset = false →
    s.inputs = .read off w :: rest → accessWellFormed off w = true →
    (∀ r, off.toNat = regOffset r →
      (r = .dstLen ∨ r = .crcValue ∨ (∃ i, r = .key i) ∨ (∃ i, r = .iv i) →
        ∃ v k, step s = .next { s with inputs := rest, resp := .data v, unspecCount := k }) ∧
      (r ≠ .dstLen → r ≠ .crcValue → (∀ i, r ≠ .key i) → (∀ i, r ≠ .iv i) →
        step s = .next { s with inputs := rest, resp := .data (regWord s r) })) ∧
    (0x01000000 ≤ off.toNat → off.toNat < 0x01000000 + bufSize s →
      ∃ v k, step s = .next { s with inputs := rest, resp := .data v, unspecCount := k })

/-- R46: a read, whatever follows it, changes nothing but the port's answer (and the model's counter of free values); while IDLE a
second read of the same place gets the same answer and changes nothing. What an allowed read answers: 0 at the reserved offsets
(R34, R41), and while IDLE what the register holds (R21) or the bytes of BUF, the lowest in bits [7:0] (R45). -/
def Obligations.ReadsHaveNoSideEffects : Prop :=
  ∀ (s : State) (off : Offset) (w : Width) (rest : List HostInput), s.inReset = false → s.inputs = .read off w :: rest →
    ∃ t, step s = .next t ∧
      (∃ r k, t = { s with inputs := rest, resp := r, unspecCount := k }) ∧
      (s.eng = .idle → t.unspecCount = s.unspecCount ∧
        ∀ rest', rest = .read off w :: rest' → step t = .next { t with inputs := rest' }) ∧
      (accessWellFormed off w = true →
        (ReservedOffset s off → t.resp = .data 0) ∧
        (s.eng = .idle →
          (∀ r, off.toNat = regOffset r → t.resp = .data (regWord s r)) ∧
          (off.toNat = 0x008 → t.resp = .data (ctrlWord s)) ∧ (off.toNat = 0x00C → t.resp = .data s.cmd) ∧
          (off.toNat = 0x010 → t.resp = .data (statusWord s)) ∧ (off.toNat = 0x02C → t.resp = .data s.dstLen) ∧
          ∀ a, off.toNat = 0x01000000 + a → a < bufSize s →
            ∃ d, t.resp = .data d ∧ ∀ j < w.bytes, d.extractLsb' (8 * j) 8 = bufByte s.buf (a + j)))

/-- R25, R117 and R124: the fields of the STATUS word, ERRCODE with the number R117 gives each error, and IRQ as CTRL.IRQ_EN AND STATUS.DONE of the words a host reads. -/
def Obligations.StatusFieldsAndIrq : Prop :=
  ∀ s : State,
    ((statusWord s).getLsbD 0 = true ↔ s.eng = .busy) ∧ (statusWord s).getLsbD 1 = s.done ∧
    ((statusWord s).getLsbD 2 = true ↔ s.errCode ≠ .none) ∧ (statusWord s).getLsbD 3 = s.chkWarn ∧
    (statusWord s).getLsbD 4 = s.overrun ∧ (statusWord s).getLsbD 5 = s.accessErr ∧
    (statusWord s).extractLsb' 6 2 = 0 ∧ (s.errCode, (statusWord s).extractLsb' 8 4) ∈ errorCodes ∧
    (statusWord s).extractLsb' 12 20 = 0 ∧
    irq s = ((ctrlWord s).getLsbD 0 && (statusWord s).getLsbD 1)

/-- R25: a write of STATUS, at any time, clears exactly the W1C bits written 1 and changes nothing else. -/
def Obligations.StatusWriteClearsOnes : Prop :=
  ∀ (s : State) (v : Word) (rest : List HostInput), s.inReset = false → s.inputs = .write 0x010 .word v :: rest →
    ∃ t, step s = .next t ∧ statusWord t = statusWord s &&& ~~~(v &&& 0x0000003A) ∧
      t.errCode = s.errCode ∧ t.eng = s.eng ∧ t.irqEn = s.irqEn ∧ t.cmd = s.cmd ∧ t.regs = s.regs ∧ t.dstLen = s.dstLen ∧
      t.buf = s.buf ∧ t.cmdl = s.cmdl ∧ t.snap = s.snap ∧ t.inputs = rest ∧ FreeKept s t

/-- R26: the six address and length registers take and give back every 32-bit value, are zero after reset, and no command modifies
them. -/
def Obligations.OperandRegistersReadBack : Prop :=
  (∀ (s : State) (off : Offset) (r : RegName) (v : Word),
    (off, r) ∈ [((0x014 : Offset), RegName.srcAddr), (0x018, .srcLen), (0x01C, .dstAddr), (0x020, .auxAddr), (0x024, .auxLen),
      (0x028, .outLen)] →
    (State.reset.eng = .idle ∧ regWord State.reset r = 0) ∧
    (s.eng = .idle → s.inReset = false → s.inputs = [.write off .word v, .read off .word] →
      ∃ t u, step s = .next t ∧ step t = .next u ∧ u.resp = .data v ∧ (∀ r', r' ≠ r → regWord u r' = regWord s r') ∧
        BufKept s u) ∧
    ∀ i t, exec i s = .next t → regWord t r = regWord s r)

/-- Host writes while IDLE (10_state.md R26, R28 to R33): every operand register, KEY and IV word takes and gives back every value, and
the write changes no other register and no BUF byte. -/
def Obligations.HostWritesOperandRegisters : Prop :=
  ∀ (s : State) (off : Offset) (r : RegName) (v : Word),
    r ∉ [.id, .caps, .ctrl, .cmd, .status, .dstLen] → off.toNat = regOffset r → s.eng = .idle → s.inReset = false →
    s.inputs = [.write off .word v, .read off .word] →
    ∃ t u, step s = .next t ∧ t.resp = .written ∧ step t = .next u ∧ u.resp = .data v ∧
      (∀ r', r' ≠ r → regWord u r' = regWord s r') ∧ BufKept s u ∧ u.eng = .idle ∧ FreeKept s u

/-- R135: a soft reset, at any time: every register at its reset value, the engine IDLE, and every BUF byte kept but those of the
destination region of the command that was BUSY (which region that is for operands no command accepts: log 16). -/
def Obligations.SoftResetState : Prop :=
  ∀ (s : State) (v : Word) (rest : List HostInput), s.inReset = false → v.getLsbD 1 = true →
    s.inputs = .write 0x008 .word v :: rest →
    ∃ t, step s = .next t ∧ t.resp = .written ∧ t.inputs = rest ∧ t.eng = .idle ∧ t.irqEn = false ∧ irq t = false ∧
      t.bufSel = s.bufSel ∧ (∀ r, r ≠ .caps → regWord t r = regWord State.reset r) ∧
      (∀ a, (s.eng = .busy → ∀ i r, decode s.cmdl = .ok i → destRegion i s.snap.regs = some r → ¬r.has a) →
        bufByte t.buf a = bufByte s.buf a)

/-- R134: `rst_n` asserted abandons the command, resets every register and lowers IRQ; after release the block is IDLE and takes a
command. The model's choices: every BUF byte is a new free value (log 4), and a host access during reset stops the model (log 14). -/
def Obligations.HardwareResetState : Prop :=
  ∀ (s : State) (rest : List HostInput), s.inputs = .assertReset :: rest →
    ∃ t, step s = .next t ∧ t.inputs = rest ∧ t.inReset = true ∧ t.eng = .idle ∧ irq t = false ∧ t.bufSel = s.bufSel ∧
      (∀ r, r ≠ .caps → regWord t r = regWord State.reset r) ∧
      (∀ a, bufByte t.buf a = Config.bufPowerUp (s.buf.epoch + 1) a) ∧
      (nextIsAccess t = true → step t = .fault .accessDuringReset) ∧
      (∀ v rest', rest = [.releaseReset, .write 0x00C .word v] ++ rest' →
        ∃ u w, step t = .next u ∧ step u = .next w ∧ w.eng = .busy ∧ w.cmd = v)

/-- R21 (V-HP-1): what a host reads right after reset, `BUF_SIZE` = 2^20. -/
def Obligations.RegistersReadTheirResetValues : Prop :=
  ∀ p ∈ [((0x000 : Offset), (0x4F433201 : Word)), (0x004, 0x000001F4), (0x008, 0), (0x00C, 0), (0x010, 0), (0x014, 0),
      (0x018, 0), (0x01C, 0), (0x020, 0), (0x024, 0), (0x028, 0), (0x02C, 0), (0x030, 2), (0x034, 32),
      (0x038, Config.crcSeedS), (0x03C, 0), (0x040, 0), (0x05C, 0), (0x060, 0), (0x06C, 0), (0x070, 0), (0xFFC, 0)],
    step { State.reset with inputs := [.read p.1 .word] } = .next { State.reset with resp := .data p.2 }

/-! ### The whole machine -/

/-- The invariant holds right after reset. -/
def Obligations.InvHoldsAtReset : Prop := Inv State.reset

/-- Every step keeps the invariant: the BUF cells stay in canonical form and inside BUF, the snapshot of a running command equals the live
values (10_state.md R19), STATUS shows no result while BUSY (R61), `rst_n` holds the reset state (R134), and DST_LEN is 0 after an
error (R27). -/
def Obligations.StepKeepsInv : Prop :=
  ∀ s t : State, Inv s → step s = .next t → Inv t

/-- R18: ENG leaves IDLE only by a write of CMD, and returns to IDLE only by a completion or a reset. -/
def Obligations.EngineStateChangesOnlyAsR18Says : Prop :=
  ∀ s t : State, step s = .next t →
    (s.eng = .idle → t.eng = .busy → ∃ v, nextWrites s .cmd v ∧ t.cmd = v) ∧
    (s.eng = .busy → t.eng = .idle →
      (engineMoves s = true ∧ t.done = true) ∨ (∃ v, nextWrites s .ctrl v ∧ v.getLsbD 1 = true) ∨
        ∃ rest, s.inputs = .assertReset :: rest)

/-- The engine starts no command by itself: an IDLE engine keeps all state (60_exceptions.md R131), so any number of steps from reset
leaves the reset state, until a host acts (10_state.md R40; log 2). -/
def Obligations.EngineStartsNothingByItself : Prop :=
  (∀ (s : State) (rest : List HostInput), s.eng = .idle → s.inputs = .engineTurn :: rest →
    step s = .next { s with inputs := rest }) ∧
  ∀ (k : Nat) (s : State), s.eng = .idle → s.inputs = [] → Sys2Proof.core.run k s = .next s

/-- The machine never refuses, and stops only on a host access during reset (R134; U16). -/
def Obligations.StepStopsOnlyOnAccessDuringReset : Prop :=
  ∀ s : State, (∃ t, step s = .next t) ∨
    (step s = .fault .accessDuringReset ∧ s.inReset = true ∧ nextIsAccess s = true)

/-- R132: along any run, a host that never writes during BUSY never sees ACCESS_ERR or OVERRUN. -/
def Obligations.CleanHostSeesNoProtocolError : Prop :=
  ∀ (k : Nat) (s t : State), s.overrun = false → s.accessErr = false →
    (∀ j < k, ∀ u, Sys2Proof.core.run j s = .next u → nextIsWrite u = true → u.eng = .idle) →
    Sys2Proof.core.run k s = .next t → t.overrun = false ∧ t.accessErr = false

/-- R139 in the model (log 1, log 3): whatever the host does meanwhile, an accepted command is no longer running after at most one step
more than the inputs that are pending. -/
def Obligations.AcceptedCommandEnds : Prop :=
  ∀ s : State, s.eng = .busy → s.inReset = false →
    ∃ k ≤ s.inputs.length + 1, ∃ t, Sys2Proof.core.run k s = .next t ∧ t.eng = .idle
end

