-- ==== Sys2Proof/Laws/Bytes.lean ====
section
/-! SUPPORT. The laws of byte strings (spec/00_scope.md R10, spec/10_state.md R33): lengths, and the two ways between words and
bytes. -/

namespace Sys2Proof.Machine

@[simp] theorem rep_length (n : Nat) (v : Byte) : (rep n v).length = n := by simp [rep]

@[simp] theorem le32_length (v : Word) : (le32 v).length = 4 := rfl

@[simp] theorem be32_length (v : Word) : (be32 v).length = 4 := rfl

@[simp] theorem be64_length (n : Nat) : (be64 n).length = 8 := rfl

@[simp] theorem bytesOf128_length (v : BitVec 128) : (bytesOf128 v).length = 16 := by simp [bytesOf128]

@[simp] theorem xorBytes_length (a b : Bytes) : (xorBytes a b).length = min a.length b.length := by simp [xorBytes]

theorem xorBytes_cancel {a b : Bytes} (h : a.length ≤ b.length) : xorBytes (xorBytes a b) b = a := by
  induction a generalizing b with
  | nil => simp [xorBytes]
  | cons x xs ih =>
    cases b with
    | nil => simp at h
    | cons y ys =>
      have := ih (b := ys) (by simpa using h)
      simp only [xorBytes, List.zipWith_cons_cons] at *
      rw [this, BitVec.xor_assoc, BitVec.xor_self, BitVec.xor_zero]

/-- Each bit of a little-endian word is a bit of one of its bytes. -/
theorem fromLE32_getLsbD (b : Bytes) {i : Nat} (h : i < 32) : (fromLE32 b).getLsbD i = (byteAt b (i / 8)).getLsbD (i % 8) := by
  unfold fromLE32
  simp only [BitVec.getLsbD_append]
  rcases (by omega : i / 8 = 0 ∨ i / 8 = 1 ∨ i / 8 = 2 ∨ i / 8 = 3) with hq | hq | hq | hq <;> rw [hq]
  · rw [if_pos (by omega)]; congr 1; omega
  · rw [if_neg (by omega), if_pos (by omega)]; congr 1; omega
  · rw [if_neg (by omega), if_neg (by omega), if_pos (by omega)]; congr 1; omega
  · rw [if_neg (by omega), if_neg (by omega), if_neg (by omega)]; congr 1; omega

/-- The little-endian bytes of a word give the word back. -/
@[simp] theorem fromLE32_le32 (v : Word) : fromLE32 (le32 v) = v := by
  simp only [fromLE32, le32, byteAt, List.getD_cons_zero, List.getD_cons_succ]
  ext i hi
  simp only [BitVec.getElem_append, BitVec.getElem_extractLsb']
  repeat' split
  all_goals rw [← BitVec.getLsbD_eq_getElem (by omega)]; congr 1; omega

/-- A 4-byte string is the little-endian form of its word. -/
theorem le32_fromLE32 (a b c d : Byte) : le32 (fromLE32 [a, b, c, d]) = [a, b, c, d] := by
  simp only [fromLE32, le32, byteAt, List.getD_cons_zero, List.getD_cons_succ]
  have byte (n : Nat) (x : Byte) (h : ∀ i < 8, (d ++ c ++ b ++ a).getLsbD (n + i) = x.getLsbD i) :
      (d ++ c ++ b ++ a).extractLsb' n 8 = x := by
    apply BitVec.eq_of_getLsbD_eq
    intro i hi
    rw [BitVec.getLsbD_extractLsb', h i hi]
    simp [hi]
  rw [byte 0 a, byte 8 b, byte 16 c, byte 24 d]
  all_goals
    intro i hi
    simp only [BitVec.getLsbD_append]
    repeat' split
    all_goals first
      | (exfalso; omega)
      | (congr 1; omega)

theorem fileBytes_length (ws : List Word) : (fileBytes ws).length = 4 * ws.length := by
  induction ws with
  | nil => rfl
  | cons w ws ih => simp only [fileBytes, List.flatMap_cons, List.length_append, List.length_cons, le32_length] at *; omega

@[simp] theorem keyFileBytes_length (k : Vector Word 8) : (keyFileBytes k).length = 32 := by
  simp [keyFileBytes, fileBytes_length]

@[simp] theorem ivBytes_length (o : OperandRegs) : (ivBytes o).length = 16 := by simp [ivBytes, fileBytes_length]

@[simp] theorem nextDraw_length (s : State) : (nextDraw s).length = 16 := by simp [nextDraw]

@[simp] theorem chunks_length (n k : Nat) (b : Bytes) : (chunks n k b).length = k := by
  induction k generalizing b with
  | zero => rfl
  | succ k ih => simp [chunks, ih]

/-- Every piece is whole when the string is long enough. -/
theorem length_of_mem_chunks {n k : Nat} {b c : Bytes} (h : n * k ≤ b.length) (hc : c ∈ chunks n k b) : c.length = n := by
  induction k generalizing b with
  | zero => simp [chunks] at hc
  | succ k ih =>
    rw [Nat.mul_succ] at h
    rcases List.mem_cons.mp hc with rfl | hc
    · simp; omega
    · exact ih (b := b.drop n) (by simp; omega) hc

theorem flatten_chunks {n k : Nat} {b : Bytes} (h : b.length = n * k) : (chunks n k b).flatten = b := by
  induction k generalizing b with
  | zero => simp_all [chunks]
  | succ k ih =>
    rw [Nat.mul_succ] at h
    rw [chunks, List.flatten_cons, ih (by simp; omega), List.take_append_drop]

theorem chunks_cons {n k : Nat} {x b : Bytes} (h : x.length = n) : chunks n (k + 1) (x ++ b) = x :: chunks n k b := by
  simp [chunks, ← h]

/-- The pad length is 1 to 16 (42_cipher.md R87). -/
theorem padLen_bounds (n : Nat) : 1 ≤ padLen n ∧ padLen n ≤ 16 := by unfold padLen; omega

theorem padLen_aligns (n : Nat) : (n + padLen n) % 16 = 0 := by unfold padLen; omega

end Sys2Proof.Machine
end

