-- ==== Sys2Proof/Laws/Memory.lean ====
section
/-! SUPPORT. The laws of BUF: a read after a write, the canonical form of the listed cells, and what the byte-string reads and
writes of a region do (spec/20_memory.md R48, R51; spec/00_scope.md R12). -/

namespace Sys2Proof.Machine

/-! ### One cell -/

theorem Memory.get?_set_same (m : Memory) (a : Nat) (b : Byte) : Memory.get? (Memory.set m a b) a = some b := by
  induction m with
  | nil => simp [Memory.set, Memory.get?]
  | cons c m ih =>
    obtain ⟨k, x⟩ := c
    simp only [Memory.set]
    split
    · simp [Memory.get?]
    · split
      · simp [Memory.get?]
      · next h => simp [Memory.get?, h, ih]

theorem Memory.get?_set_other (m : Memory) {a c : Nat} (b : Byte) (h : c ≠ a) :
    Memory.get? (Memory.set m a b) c = Memory.get? m c := by
  induction m with
  | nil => simp [Memory.set, Memory.get?, h]
  | cons d m ih =>
    obtain ⟨k, x⟩ := d
    simp only [Memory.set]
    split
    · simp [Memory.get?, h]
    · split
      · next h' => subst h'; simp [Memory.get?, h]
      · simp [Memory.get?, ih]

/-! ### The canonical form -/

@[simp] theorem Memory.wf_iff (m : Memory) : Memory.wf m = true ↔ m.Pairwise fun x y => x.1 < y.1 := by
  simp [Memory.wf]

theorem Memory.mem_set {m : Memory} {a : Nat} {b : Byte} {c : Host.Cell} (h : c ∈ Memory.set m a b) :
    c = (a, b) ∨ c ∈ m := by
  induction m with
  | nil => simpa [Memory.set] using h
  | cons d m ih =>
    obtain ⟨k, x⟩ := d
    simp only [Memory.set] at h
    split at h
    · simpa using h
    · split at h
      · rcases List.mem_cons.mp h with h | h
        · exact .inl h
        · exact .inr (List.mem_cons_of_mem _ h)
      · rcases List.mem_cons.mp h with h | h
        · exact .inr (h ▸ List.mem_cons_self)
        · rcases ih h with h | h
          · exact .inl h
          · exact .inr (List.mem_cons_of_mem _ h)

/-- Storing one byte keeps the canonical form. -/
theorem Memory.wf_set {m : Memory} (a : Nat) (b : Byte) (h : Memory.wf m = true) : Memory.wf (Memory.set m a b) = true := by
  rw [Memory.wf_iff] at *
  induction m with
  | nil => simp [Memory.set]
  | cons d m ih =>
    obtain ⟨k, x⟩ := d
    obtain ⟨hk, hm⟩ := List.pairwise_cons.mp h
    simp only [Memory.set]
    split
    · next hlt =>
      refine List.pairwise_cons.mpr ⟨fun c hc => ?_, h⟩
      rcases List.mem_cons.mp hc with rfl | hc
      · exact hlt
      · exact hlt.trans (hk c hc)
    · split
      · next heq => subst heq; exact List.pairwise_cons.mpr ⟨hk, hm⟩
      · next hlt hne =>
        refine List.pairwise_cons.mpr ⟨fun c hc => ?_, ih hm⟩
        rcases Memory.mem_set hc with rfl | hc
        · show k < a; omega
        · exact hk c hc

@[simp] theorem Memory.below_iff (n : Nat) (m : Memory) : Memory.below n m = true ↔ ∀ c ∈ m, c.1 < n := by
  simp [Memory.below]

theorem Memory.below_set {n : Nat} {m : Memory} {a : Nat} (b : Byte) (ha : a < n) (h : Memory.below n m = true) :
    Memory.below n (Memory.set m a b) = true := by
  rw [Memory.below_iff] at *
  intro c hc
  rcases Memory.mem_set hc with rfl | hc
  · exact ha
  · exact h c hc

/-! ### BUF bytes -/

@[simp] theorem bufByte_bufSet_same (b : Buf) (a : Nat) (v : Byte) : bufByte (bufSet b a v) a = v := by
  simp [bufByte, bufSet, Memory.get?_set_same]

theorem bufByte_bufSet_other (b : Buf) {a c : Nat} (v : Byte) (h : c ≠ a) : bufByte (bufSet b a v) c = bufByte b c := by
  simp [bufByte, bufSet, Memory.get?_set_other _ _ h]

@[simp] theorem bufWrite_epoch (b : Buf) (a : Nat) (v : Bytes) : (bufWrite b a v).epoch = b.epoch := by
  induction v generalizing b a with
  | nil => rfl
  | cons x xs ih => simp [bufWrite, ih, bufSet]

/-- Everything a write of a byte string does to the bytes of BUF. -/
theorem bufByte_bufWrite (b : Buf) (a : Nat) (v : Bytes) (c : Nat) :
    bufByte (bufWrite b a v) c = if a ≤ c ∧ c < a + v.length then byteAt v (c - a) else bufByte b c := by
  induction v generalizing b a with
  | nil =>
    have : ¬(a ≤ c ∧ c < a + ([] : Bytes).length) := by simp
    rw [if_neg this]; rfl
  | cons x xs ih =>
    rw [bufWrite, ih]
    by_cases h : c = a
    · subst h
      rw [if_neg (by omega), if_pos (by simp)]
      simp [byteAt]
    · by_cases h' : a + 1 ≤ c ∧ c < a + 1 + xs.length
      · rw [if_pos h', if_pos (by simp only [List.length_cons]; omega)]
        obtain ⟨k, hk⟩ : ∃ k, c - a = k + 1 := ⟨c - a - 1, by omega⟩
        rw [hk, show c - (a + 1) = k by omega]; simp [byteAt]
      · rw [if_neg h', if_neg (by simp only [List.length_cons]; omega), bufByte_bufSet_other _ _ h]

theorem bufByte_bufWrite_in (b : Buf) (a : Nat) (v : Bytes) {i : Nat} (h : i < v.length) :
    bufByte (bufWrite b a v) (a + i) = byteAt v i := by
  rw [bufByte_bufWrite, if_pos (by omega)]; congr 1; omega

theorem bufByte_bufWrite_out (b : Buf) (a : Nat) (v : Bytes) {c : Nat} (h : ¬(a ≤ c ∧ c < a + v.length)) :
    bufByte (bufWrite b a v) c = bufByte b c := by
  rw [bufByte_bufWrite, if_neg h]

@[simp] theorem bufRead_length (b : Buf) (a n : Nat) : (bufRead b a n).length = n := by simp [bufRead]

@[simp] theorem memRead_length (s : State) (r : Region) : (memRead s r).length = r.len := by simp [memRead]

theorem byteAt_bufRead (b : Buf) (a n : Nat) {i : Nat} (h : i < n) : byteAt (bufRead b a n) i = bufByte b (a + i) := by
  simp [byteAt, bufRead, h]

/-- Reading back what was written. -/
theorem bufRead_bufWrite_same (b : Buf) (a : Nat) (v : Bytes) : bufRead (bufWrite b a v) a v.length = v := by
  apply List.ext_getElem (by simp)
  intro i h1 h2
  simp only [bufRead, List.getElem_map, List.getElem_range]
  rw [bufByte_bufWrite_in _ _ _ h2]
  simp [byteAt, h2]

/-- A region that a write does not touch reads as before. -/
theorem bufRead_bufWrite_disjoint (b : Buf) (a : Nat) (v : Bytes) {c n : Nat} (h : c + n ≤ a ∨ a + v.length ≤ c) :
    bufRead (bufWrite b a v) c n = bufRead b c n := by
  apply List.map_congr_left
  intro i hi
  rw [List.mem_range] at hi
  exact bufByte_bufWrite_out _ _ _ (by omega)

/-! ### Every operation keeps the canonical form -/

theorem bufSet_wf {b : Buf} (a : Nat) (v : Byte) (h : Memory.wf b.cells = true) : Memory.wf (bufSet b a v).cells = true :=
  Memory.wf_set a v h

theorem bufWrite_wf {b : Buf} (a : Nat) (v : Bytes) (h : Memory.wf b.cells = true) : Memory.wf (bufWrite b a v).cells = true := by
  induction v generalizing b a with
  | nil => exact h
  | cons x xs ih => exact ih _ (bufSet_wf a x h)

/-- A write inside the first `n` bytes lists no offset outside them. -/
theorem bufWrite_below {b : Buf} {n a : Nat} (v : Bytes) (ha : a + v.length ≤ n) (h : Memory.below n b.cells = true) :
    Memory.below n (bufWrite b a v).cells = true := by
  induction v generalizing b a with
  | nil => exact h
  | cons x xs ih =>
    simp only [List.length_cons] at ha
    exact ih (by omega) (Memory.below_set x (by omega) h)

theorem memWrite_wf {s : State} (a : Nat) (v : Bytes) (h : Memory.wf s.buf.cells = true) :
    Memory.wf (s.memWrite a v).buf.cells = true := bufWrite_wf a v h

theorem memForget_wf {s : State} (r : Region) (h : Memory.wf s.buf.cells = true) :
    Memory.wf (s.memForget r).buf.cells = true := bufWrite_wf _ _ h

theorem hardReset_wf (s : State) : Memory.wf (hardReset s).buf.cells = true := rfl

/-- The BUF of the machine after reset is in canonical form. -/
theorem reset_buf_wf : Memory.wf State.reset.buf.cells = true := rfl

@[simp] theorem unspecifiedBytes_length (k n : Nat) : (unspecifiedBytes k n).length = n := by simp [unspecifiedBytes]

theorem bufSize_pos (s : State) : 0 < bufSize s := Nat.two_pow_pos _

/-- BUF_SIZE is a multiple of 4096, so no aligned access of the port crosses its end. -/
theorem bufSize_dvd (s : State) : 2 ^ 12 ∣ bufSize s := Nat.pow_dvd_pow 2 (by omega)

/-- BUF lies inside the 16 MiB window. -/
theorem bufSize_le (s : State) : bufSize s ≤ 2 ^ 24 := Nat.pow_le_pow_right (by omega) (by omega)

end Sys2Proof.Machine
end

