-- ==== Sys2Proof/Laws/State.lean ====
section
/-! SUPPORT. What every named update of State does to every field: one lemma per field per update, so that no proof unfolds
a record update. -/

namespace Sys2Proof.Machine

variable (s : State)

/-! `State.setCrc` -/

@[simp] theorem State.setCrc_bufSel (v : Word) : (s.setCrc v).bufSel = s.bufSel := rfl
@[simp] theorem State.setCrc_irqEn (v : Word) : (s.setCrc v).irqEn = s.irqEn := rfl
@[simp] theorem State.setCrc_cmd (v : Word) : (s.setCrc v).cmd = s.cmd := rfl
@[simp] theorem State.setCrc_eng (v : Word) : (s.setCrc v).eng = s.eng := rfl
@[simp] theorem State.setCrc_done (v : Word) : (s.setCrc v).done = s.done := rfl
@[simp] theorem State.setCrc_chkWarn (v : Word) : (s.setCrc v).chkWarn = s.chkWarn := rfl
@[simp] theorem State.setCrc_overrun (v : Word) : (s.setCrc v).overrun = s.overrun := rfl
@[simp] theorem State.setCrc_accessErr (v : Word) : (s.setCrc v).accessErr = s.accessErr := rfl
@[simp] theorem State.setCrc_errCode (v : Word) : (s.setCrc v).errCode = s.errCode := rfl
@[simp] theorem State.setCrc_regs (v : Word) : (s.setCrc v).regs = { s.regs with crcValue := v } := rfl
@[simp] theorem State.setCrc_dstLen (v : Word) : (s.setCrc v).dstLen = s.dstLen := rfl
@[simp] theorem State.setCrc_buf (v : Word) : (s.setCrc v).buf = s.buf := rfl
@[simp] theorem State.setCrc_cmdl (v : Word) : (s.setCrc v).cmdl = s.cmdl := rfl
@[simp] theorem State.setCrc_snap (v : Word) : (s.setCrc v).snap = s.snap := rfl
@[simp] theorem State.setCrc_inReset (v : Word) : (s.setCrc v).inReset = s.inReset := rfl
@[simp] theorem State.setCrc_resp (v : Word) : (s.setCrc v).resp = s.resp := rfl
@[simp] theorem State.setCrc_inputs (v : Word) : (s.setCrc v).inputs = s.inputs := rfl
@[simp] theorem State.setCrc_ivDraws (v : Word) : (s.setCrc v).ivDraws = s.ivDraws := rfl
@[simp] theorem State.setCrc_unspecCount (v : Word) : (s.setCrc v).unspecCount = s.unspecCount := rfl

/-! `State.setDstLen` -/

@[simp] theorem State.setDstLen_bufSel (n : Nat) : (s.setDstLen n).bufSel = s.bufSel := rfl
@[simp] theorem State.setDstLen_irqEn (n : Nat) : (s.setDstLen n).irqEn = s.irqEn := rfl
@[simp] theorem State.setDstLen_cmd (n : Nat) : (s.setDstLen n).cmd = s.cmd := rfl
@[simp] theorem State.setDstLen_eng (n : Nat) : (s.setDstLen n).eng = s.eng := rfl
@[simp] theorem State.setDstLen_done (n : Nat) : (s.setDstLen n).done = s.done := rfl
@[simp] theorem State.setDstLen_chkWarn (n : Nat) : (s.setDstLen n).chkWarn = s.chkWarn := rfl
@[simp] theorem State.setDstLen_overrun (n : Nat) : (s.setDstLen n).overrun = s.overrun := rfl
@[simp] theorem State.setDstLen_accessErr (n : Nat) : (s.setDstLen n).accessErr = s.accessErr := rfl
@[simp] theorem State.setDstLen_errCode (n : Nat) : (s.setDstLen n).errCode = s.errCode := rfl
@[simp] theorem State.setDstLen_regs (n : Nat) : (s.setDstLen n).regs = s.regs := rfl
@[simp] theorem State.setDstLen_dstLen (n : Nat) : (s.setDstLen n).dstLen = BitVec.ofNat 32 n := rfl
@[simp] theorem State.setDstLen_buf (n : Nat) : (s.setDstLen n).buf = s.buf := rfl
@[simp] theorem State.setDstLen_cmdl (n : Nat) : (s.setDstLen n).cmdl = s.cmdl := rfl
@[simp] theorem State.setDstLen_snap (n : Nat) : (s.setDstLen n).snap = s.snap := rfl
@[simp] theorem State.setDstLen_inReset (n : Nat) : (s.setDstLen n).inReset = s.inReset := rfl
@[simp] theorem State.setDstLen_resp (n : Nat) : (s.setDstLen n).resp = s.resp := rfl
@[simp] theorem State.setDstLen_inputs (n : Nat) : (s.setDstLen n).inputs = s.inputs := rfl
@[simp] theorem State.setDstLen_ivDraws (n : Nat) : (s.setDstLen n).ivDraws = s.ivDraws := rfl
@[simp] theorem State.setDstLen_unspecCount (n : Nat) : (s.setDstLen n).unspecCount = s.unspecCount := rfl

/-! `State.warnIf` -/

@[simp] theorem State.warnIf_bufSel (m : Bool) : (s.warnIf m).bufSel = s.bufSel := rfl
@[simp] theorem State.warnIf_irqEn (m : Bool) : (s.warnIf m).irqEn = s.irqEn := rfl
@[simp] theorem State.warnIf_cmd (m : Bool) : (s.warnIf m).cmd = s.cmd := rfl
@[simp] theorem State.warnIf_eng (m : Bool) : (s.warnIf m).eng = s.eng := rfl
@[simp] theorem State.warnIf_done (m : Bool) : (s.warnIf m).done = s.done := rfl
@[simp] theorem State.warnIf_chkWarn (m : Bool) : (s.warnIf m).chkWarn = (s.chkWarn || m) := rfl
@[simp] theorem State.warnIf_overrun (m : Bool) : (s.warnIf m).overrun = s.overrun := rfl
@[simp] theorem State.warnIf_accessErr (m : Bool) : (s.warnIf m).accessErr = s.accessErr := rfl
@[simp] theorem State.warnIf_errCode (m : Bool) : (s.warnIf m).errCode = s.errCode := rfl
@[simp] theorem State.warnIf_regs (m : Bool) : (s.warnIf m).regs = s.regs := rfl
@[simp] theorem State.warnIf_dstLen (m : Bool) : (s.warnIf m).dstLen = s.dstLen := rfl
@[simp] theorem State.warnIf_buf (m : Bool) : (s.warnIf m).buf = s.buf := rfl
@[simp] theorem State.warnIf_cmdl (m : Bool) : (s.warnIf m).cmdl = s.cmdl := rfl
@[simp] theorem State.warnIf_snap (m : Bool) : (s.warnIf m).snap = s.snap := rfl
@[simp] theorem State.warnIf_inReset (m : Bool) : (s.warnIf m).inReset = s.inReset := rfl
@[simp] theorem State.warnIf_resp (m : Bool) : (s.warnIf m).resp = s.resp := rfl
@[simp] theorem State.warnIf_inputs (m : Bool) : (s.warnIf m).inputs = s.inputs := rfl
@[simp] theorem State.warnIf_ivDraws (m : Bool) : (s.warnIf m).ivDraws = s.ivDraws := rfl
@[simp] theorem State.warnIf_unspecCount (m : Bool) : (s.warnIf m).unspecCount = s.unspecCount := rfl

/-! `State.setKey` -/

@[simp] theorem State.setKey_bufSel (k : Vector Word 8) : (s.setKey k).bufSel = s.bufSel := rfl
@[simp] theorem State.setKey_irqEn (k : Vector Word 8) : (s.setKey k).irqEn = s.irqEn := rfl
@[simp] theorem State.setKey_cmd (k : Vector Word 8) : (s.setKey k).cmd = s.cmd := rfl
@[simp] theorem State.setKey_eng (k : Vector Word 8) : (s.setKey k).eng = s.eng := rfl
@[simp] theorem State.setKey_done (k : Vector Word 8) : (s.setKey k).done = s.done := rfl
@[simp] theorem State.setKey_chkWarn (k : Vector Word 8) : (s.setKey k).chkWarn = s.chkWarn := rfl
@[simp] theorem State.setKey_overrun (k : Vector Word 8) : (s.setKey k).overrun = s.overrun := rfl
@[simp] theorem State.setKey_accessErr (k : Vector Word 8) : (s.setKey k).accessErr = s.accessErr := rfl
@[simp] theorem State.setKey_errCode (k : Vector Word 8) : (s.setKey k).errCode = s.errCode := rfl
@[simp] theorem State.setKey_regs (k : Vector Word 8) : (s.setKey k).regs = { s.regs with key := k } := rfl
@[simp] theorem State.setKey_dstLen (k : Vector Word 8) : (s.setKey k).dstLen = s.dstLen := rfl
@[simp] theorem State.setKey_buf (k : Vector Word 8) : (s.setKey k).buf = s.buf := rfl
@[simp] theorem State.setKey_cmdl (k : Vector Word 8) : (s.setKey k).cmdl = s.cmdl := rfl
@[simp] theorem State.setKey_snap (k : Vector Word 8) : (s.setKey k).snap = s.snap := rfl
@[simp] theorem State.setKey_inReset (k : Vector Word 8) : (s.setKey k).inReset = s.inReset := rfl
@[simp] theorem State.setKey_resp (k : Vector Word 8) : (s.setKey k).resp = s.resp := rfl
@[simp] theorem State.setKey_inputs (k : Vector Word 8) : (s.setKey k).inputs = s.inputs := rfl
@[simp] theorem State.setKey_ivDraws (k : Vector Word 8) : (s.setKey k).ivDraws = s.ivDraws := rfl
@[simp] theorem State.setKey_unspecCount (k : Vector Word 8) : (s.setKey k).unspecCount = s.unspecCount := rfl

/-! `State.setIv` -/

@[simp] theorem State.setIv_bufSel (v : Vector Word 4) : (s.setIv v).bufSel = s.bufSel := rfl
@[simp] theorem State.setIv_irqEn (v : Vector Word 4) : (s.setIv v).irqEn = s.irqEn := rfl
@[simp] theorem State.setIv_cmd (v : Vector Word 4) : (s.setIv v).cmd = s.cmd := rfl
@[simp] theorem State.setIv_eng (v : Vector Word 4) : (s.setIv v).eng = s.eng := rfl
@[simp] theorem State.setIv_done (v : Vector Word 4) : (s.setIv v).done = s.done := rfl
@[simp] theorem State.setIv_chkWarn (v : Vector Word 4) : (s.setIv v).chkWarn = s.chkWarn := rfl
@[simp] theorem State.setIv_overrun (v : Vector Word 4) : (s.setIv v).overrun = s.overrun := rfl
@[simp] theorem State.setIv_accessErr (v : Vector Word 4) : (s.setIv v).accessErr = s.accessErr := rfl
@[simp] theorem State.setIv_errCode (v : Vector Word 4) : (s.setIv v).errCode = s.errCode := rfl
@[simp] theorem State.setIv_regs (v : Vector Word 4) : (s.setIv v).regs = { s.regs with iv := v } := rfl
@[simp] theorem State.setIv_dstLen (v : Vector Word 4) : (s.setIv v).dstLen = s.dstLen := rfl
@[simp] theorem State.setIv_buf (v : Vector Word 4) : (s.setIv v).buf = s.buf := rfl
@[simp] theorem State.setIv_cmdl (v : Vector Word 4) : (s.setIv v).cmdl = s.cmdl := rfl
@[simp] theorem State.setIv_snap (v : Vector Word 4) : (s.setIv v).snap = s.snap := rfl
@[simp] theorem State.setIv_inReset (v : Vector Word 4) : (s.setIv v).inReset = s.inReset := rfl
@[simp] theorem State.setIv_resp (v : Vector Word 4) : (s.setIv v).resp = s.resp := rfl
@[simp] theorem State.setIv_inputs (v : Vector Word 4) : (s.setIv v).inputs = s.inputs := rfl
@[simp] theorem State.setIv_ivDraws (v : Vector Word 4) : (s.setIv v).ivDraws = s.ivDraws := rfl
@[simp] theorem State.setIv_unspecCount (v : Vector Word 4) : (s.setIv v).unspecCount = s.unspecCount := rfl

/-! `State.drawTaken` -/

@[simp] theorem State.drawTaken_bufSel : s.drawTaken.bufSel = s.bufSel := rfl
@[simp] theorem State.drawTaken_irqEn : s.drawTaken.irqEn = s.irqEn := rfl
@[simp] theorem State.drawTaken_cmd : s.drawTaken.cmd = s.cmd := rfl
@[simp] theorem State.drawTaken_eng : s.drawTaken.eng = s.eng := rfl
@[simp] theorem State.drawTaken_done : s.drawTaken.done = s.done := rfl
@[simp] theorem State.drawTaken_chkWarn : s.drawTaken.chkWarn = s.chkWarn := rfl
@[simp] theorem State.drawTaken_overrun : s.drawTaken.overrun = s.overrun := rfl
@[simp] theorem State.drawTaken_accessErr : s.drawTaken.accessErr = s.accessErr := rfl
@[simp] theorem State.drawTaken_errCode : s.drawTaken.errCode = s.errCode := rfl
@[simp] theorem State.drawTaken_regs : s.drawTaken.regs = s.regs := rfl
@[simp] theorem State.drawTaken_dstLen : s.drawTaken.dstLen = s.dstLen := rfl
@[simp] theorem State.drawTaken_buf : s.drawTaken.buf = s.buf := rfl
@[simp] theorem State.drawTaken_cmdl : s.drawTaken.cmdl = s.cmdl := rfl
@[simp] theorem State.drawTaken_snap : s.drawTaken.snap = s.snap := rfl
@[simp] theorem State.drawTaken_inReset : s.drawTaken.inReset = s.inReset := rfl
@[simp] theorem State.drawTaken_resp : s.drawTaken.resp = s.resp := rfl
@[simp] theorem State.drawTaken_inputs : s.drawTaken.inputs = s.inputs := rfl
@[simp] theorem State.drawTaken_ivDraws : s.drawTaken.ivDraws = s.ivDraws + 1 := rfl
@[simp] theorem State.drawTaken_unspecCount : s.drawTaken.unspecCount = s.unspecCount := rfl

/-! `State.memWrite` -/

@[simp] theorem State.memWrite_bufSel (a : Nat) (v : Bytes) : (s.memWrite a v).bufSel = s.bufSel := rfl
@[simp] theorem State.memWrite_irqEn (a : Nat) (v : Bytes) : (s.memWrite a v).irqEn = s.irqEn := rfl
@[simp] theorem State.memWrite_cmd (a : Nat) (v : Bytes) : (s.memWrite a v).cmd = s.cmd := rfl
@[simp] theorem State.memWrite_eng (a : Nat) (v : Bytes) : (s.memWrite a v).eng = s.eng := rfl
@[simp] theorem State.memWrite_done (a : Nat) (v : Bytes) : (s.memWrite a v).done = s.done := rfl
@[simp] theorem State.memWrite_chkWarn (a : Nat) (v : Bytes) : (s.memWrite a v).chkWarn = s.chkWarn := rfl
@[simp] theorem State.memWrite_overrun (a : Nat) (v : Bytes) : (s.memWrite a v).overrun = s.overrun := rfl
@[simp] theorem State.memWrite_accessErr (a : Nat) (v : Bytes) : (s.memWrite a v).accessErr = s.accessErr := rfl
@[simp] theorem State.memWrite_errCode (a : Nat) (v : Bytes) : (s.memWrite a v).errCode = s.errCode := rfl
@[simp] theorem State.memWrite_regs (a : Nat) (v : Bytes) : (s.memWrite a v).regs = s.regs := rfl
@[simp] theorem State.memWrite_dstLen (a : Nat) (v : Bytes) : (s.memWrite a v).dstLen = s.dstLen := rfl
@[simp] theorem State.memWrite_buf (a : Nat) (v : Bytes) : (s.memWrite a v).buf = bufWrite s.buf a v := rfl
@[simp] theorem State.memWrite_cmdl (a : Nat) (v : Bytes) : (s.memWrite a v).cmdl = s.cmdl := rfl
@[simp] theorem State.memWrite_snap (a : Nat) (v : Bytes) : (s.memWrite a v).snap = s.snap := rfl
@[simp] theorem State.memWrite_inReset (a : Nat) (v : Bytes) : (s.memWrite a v).inReset = s.inReset := rfl
@[simp] theorem State.memWrite_resp (a : Nat) (v : Bytes) : (s.memWrite a v).resp = s.resp := rfl
@[simp] theorem State.memWrite_inputs (a : Nat) (v : Bytes) : (s.memWrite a v).inputs = s.inputs := rfl
@[simp] theorem State.memWrite_ivDraws (a : Nat) (v : Bytes) : (s.memWrite a v).ivDraws = s.ivDraws := rfl
@[simp] theorem State.memWrite_unspecCount (a : Nat) (v : Bytes) : (s.memWrite a v).unspecCount = s.unspecCount := rfl

/-! `State.memForget` -/

@[simp] theorem State.memForget_bufSel (r : Region) : (s.memForget r).bufSel = s.bufSel := rfl
@[simp] theorem State.memForget_irqEn (r : Region) : (s.memForget r).irqEn = s.irqEn := rfl
@[simp] theorem State.memForget_cmd (r : Region) : (s.memForget r).cmd = s.cmd := rfl
@[simp] theorem State.memForget_eng (r : Region) : (s.memForget r).eng = s.eng := rfl
@[simp] theorem State.memForget_done (r : Region) : (s.memForget r).done = s.done := rfl
@[simp] theorem State.memForget_chkWarn (r : Region) : (s.memForget r).chkWarn = s.chkWarn := rfl
@[simp] theorem State.memForget_overrun (r : Region) : (s.memForget r).overrun = s.overrun := rfl
@[simp] theorem State.memForget_accessErr (r : Region) : (s.memForget r).accessErr = s.accessErr := rfl
@[simp] theorem State.memForget_errCode (r : Region) : (s.memForget r).errCode = s.errCode := rfl
@[simp] theorem State.memForget_regs (r : Region) : (s.memForget r).regs = s.regs := rfl
@[simp] theorem State.memForget_dstLen (r : Region) : (s.memForget r).dstLen = s.dstLen := rfl
@[simp] theorem State.memForget_buf (r : Region) : (s.memForget r).buf = bufWrite s.buf r.addr (unspecifiedBytes s.unspecCount r.len) := rfl
@[simp] theorem State.memForget_cmdl (r : Region) : (s.memForget r).cmdl = s.cmdl := rfl
@[simp] theorem State.memForget_snap (r : Region) : (s.memForget r).snap = s.snap := rfl
@[simp] theorem State.memForget_inReset (r : Region) : (s.memForget r).inReset = s.inReset := rfl
@[simp] theorem State.memForget_resp (r : Region) : (s.memForget r).resp = s.resp := rfl
@[simp] theorem State.memForget_inputs (r : Region) : (s.memForget r).inputs = s.inputs := rfl
@[simp] theorem State.memForget_ivDraws (r : Region) : (s.memForget r).ivDraws = s.ivDraws := rfl
@[simp] theorem State.memForget_unspecCount (r : Region) : (s.memForget r).unspecCount = s.unspecCount + 1 := rfl

/-! `State.complete` -/

@[simp] theorem State.complete_bufSel (e : ErrCode) : (s.complete e).bufSel = s.bufSel := rfl
@[simp] theorem State.complete_irqEn (e : ErrCode) : (s.complete e).irqEn = s.irqEn := rfl
@[simp] theorem State.complete_cmd (e : ErrCode) : (s.complete e).cmd = s.cmd := rfl
@[simp] theorem State.complete_eng (e : ErrCode) : (s.complete e).eng = .idle := rfl
@[simp] theorem State.complete_done (e : ErrCode) : (s.complete e).done = true := rfl
@[simp] theorem State.complete_chkWarn (e : ErrCode) : (s.complete e).chkWarn = s.chkWarn := rfl
@[simp] theorem State.complete_overrun (e : ErrCode) : (s.complete e).overrun = s.overrun := rfl
@[simp] theorem State.complete_accessErr (e : ErrCode) : (s.complete e).accessErr = s.accessErr := rfl
@[simp] theorem State.complete_errCode (e : ErrCode) : (s.complete e).errCode = e := rfl
@[simp] theorem State.complete_regs (e : ErrCode) : (s.complete e).regs = s.regs := rfl
@[simp] theorem State.complete_dstLen (e : ErrCode) : (s.complete e).dstLen = s.dstLen := rfl
@[simp] theorem State.complete_buf (e : ErrCode) : (s.complete e).buf = s.buf := rfl
@[simp] theorem State.complete_cmdl (e : ErrCode) : (s.complete e).cmdl = s.cmdl := rfl
@[simp] theorem State.complete_snap (e : ErrCode) : (s.complete e).snap = s.snap := rfl
@[simp] theorem State.complete_inReset (e : ErrCode) : (s.complete e).inReset = s.inReset := rfl
@[simp] theorem State.complete_resp (e : ErrCode) : (s.complete e).resp = s.resp := rfl
@[simp] theorem State.complete_inputs (e : ErrCode) : (s.complete e).inputs = s.inputs := rfl
@[simp] theorem State.complete_ivDraws (e : ErrCode) : (s.complete e).ivDraws = s.ivDraws := rfl
@[simp] theorem State.complete_unspecCount (e : ErrCode) : (s.complete e).unspecCount = s.unspecCount := rfl

/-! `finish` -/

@[simp] theorem finish_bufSel : (finish s).bufSel = s.bufSel := rfl
@[simp] theorem finish_irqEn : (finish s).irqEn = s.irqEn := rfl
@[simp] theorem finish_cmd : (finish s).cmd = s.cmd := rfl
@[simp] theorem finish_eng : (finish s).eng = .idle := rfl
@[simp] theorem finish_done : (finish s).done = true := rfl
@[simp] theorem finish_chkWarn : (finish s).chkWarn = s.chkWarn := rfl
@[simp] theorem finish_overrun : (finish s).overrun = s.overrun := rfl
@[simp] theorem finish_accessErr : (finish s).accessErr = s.accessErr := rfl
@[simp] theorem finish_errCode : (finish s).errCode = .none := rfl
@[simp] theorem finish_regs : (finish s).regs = s.regs := rfl
@[simp] theorem finish_dstLen : (finish s).dstLen = s.dstLen := rfl
@[simp] theorem finish_buf : (finish s).buf = s.buf := rfl
@[simp] theorem finish_cmdl : (finish s).cmdl = s.cmdl := rfl
@[simp] theorem finish_snap : (finish s).snap = s.snap := rfl
@[simp] theorem finish_inReset : (finish s).inReset = s.inReset := rfl
@[simp] theorem finish_resp : (finish s).resp = s.resp := rfl
@[simp] theorem finish_inputs : (finish s).inputs = s.inputs := rfl
@[simp] theorem finish_ivDraws : (finish s).ivDraws = s.ivDraws := rfl
@[simp] theorem finish_unspecCount : (finish s).unspecCount = s.unspecCount := rfl

/-! `raise` -/

@[simp] theorem raise_bufSel (e : ErrCode) : (raise e s).bufSel = s.bufSel := rfl
@[simp] theorem raise_irqEn (e : ErrCode) : (raise e s).irqEn = s.irqEn := rfl
@[simp] theorem raise_cmd (e : ErrCode) : (raise e s).cmd = s.cmd := rfl
@[simp] theorem raise_eng (e : ErrCode) : (raise e s).eng = .idle := rfl
@[simp] theorem raise_done (e : ErrCode) : (raise e s).done = true := rfl
@[simp] theorem raise_chkWarn (e : ErrCode) : (raise e s).chkWarn = s.chkWarn := rfl
@[simp] theorem raise_overrun (e : ErrCode) : (raise e s).overrun = s.overrun := rfl
@[simp] theorem raise_accessErr (e : ErrCode) : (raise e s).accessErr = s.accessErr := rfl
@[simp] theorem raise_errCode (e : ErrCode) : (raise e s).errCode = e := rfl
@[simp] theorem raise_regs (e : ErrCode) : (raise e s).regs = s.regs := rfl
@[simp] theorem raise_dstLen (e : ErrCode) : (raise e s).dstLen = 0 := rfl
@[simp] theorem raise_buf (e : ErrCode) : (raise e s).buf = s.buf := rfl
@[simp] theorem raise_cmdl (e : ErrCode) : (raise e s).cmdl = s.cmdl := rfl
@[simp] theorem raise_snap (e : ErrCode) : (raise e s).snap = s.snap := rfl
@[simp] theorem raise_inReset (e : ErrCode) : (raise e s).inReset = s.inReset := rfl
@[simp] theorem raise_resp (e : ErrCode) : (raise e s).resp = s.resp := rfl
@[simp] theorem raise_inputs (e : ErrCode) : (raise e s).inputs = s.inputs := rfl
@[simp] theorem raise_ivDraws (e : ErrCode) : (raise e s).ivDraws = s.ivDraws := rfl
@[simp] theorem raise_unspecCount (e : ErrCode) : (raise e s).unspecCount = s.unspecCount := rfl

/-! `State.accept` -/

@[simp] theorem State.accept_bufSel (v : Word) : (s.accept v).bufSel = s.bufSel := rfl
@[simp] theorem State.accept_irqEn (v : Word) : (s.accept v).irqEn = s.irqEn := rfl
@[simp] theorem State.accept_cmd (v : Word) : (s.accept v).cmd = v := rfl
@[simp] theorem State.accept_eng (v : Word) : (s.accept v).eng = .busy := rfl
@[simp] theorem State.accept_done (v : Word) : (s.accept v).done = false := rfl
@[simp] theorem State.accept_chkWarn (v : Word) : (s.accept v).chkWarn = false := rfl
@[simp] theorem State.accept_overrun (v : Word) : (s.accept v).overrun = s.overrun := rfl
@[simp] theorem State.accept_accessErr (v : Word) : (s.accept v).accessErr = s.accessErr := rfl
@[simp] theorem State.accept_errCode (v : Word) : (s.accept v).errCode = .none := rfl
@[simp] theorem State.accept_regs (v : Word) : (s.accept v).regs = s.regs := rfl
@[simp] theorem State.accept_dstLen (v : Word) : (s.accept v).dstLen = 0 := rfl
@[simp] theorem State.accept_buf (v : Word) : (s.accept v).buf = s.buf := rfl
@[simp] theorem State.accept_cmdl (v : Word) : (s.accept v).cmdl = v := rfl
@[simp] theorem State.accept_snap (v : Word) : (s.accept v).snap = takeSnapshot s := rfl
@[simp] theorem State.accept_inReset (v : Word) : (s.accept v).inReset = s.inReset := rfl
@[simp] theorem State.accept_resp (v : Word) : (s.accept v).resp = s.resp := rfl
@[simp] theorem State.accept_inputs (v : Word) : (s.accept v).inputs = s.inputs := rfl
@[simp] theorem State.accept_ivDraws (v : Word) : (s.accept v).ivDraws = s.ivDraws := rfl
@[simp] theorem State.accept_unspecCount (v : Word) : (s.accept v).unspecCount = s.unspecCount := rfl

/-! `State.resetRegisters` -/

@[simp] theorem State.resetRegisters_bufSel : s.resetRegisters.bufSel = s.bufSel := rfl
@[simp] theorem State.resetRegisters_irqEn : s.resetRegisters.irqEn = false := rfl
@[simp] theorem State.resetRegisters_cmd : s.resetRegisters.cmd = 0 := rfl
@[simp] theorem State.resetRegisters_eng : s.resetRegisters.eng = .idle := rfl
@[simp] theorem State.resetRegisters_done : s.resetRegisters.done = false := rfl
@[simp] theorem State.resetRegisters_chkWarn : s.resetRegisters.chkWarn = false := rfl
@[simp] theorem State.resetRegisters_overrun : s.resetRegisters.overrun = false := rfl
@[simp] theorem State.resetRegisters_accessErr : s.resetRegisters.accessErr = false := rfl
@[simp] theorem State.resetRegisters_errCode : s.resetRegisters.errCode = .none := rfl
@[simp] theorem State.resetRegisters_regs : s.resetRegisters.regs = resetRegs := rfl
@[simp] theorem State.resetRegisters_dstLen : s.resetRegisters.dstLen = 0 := rfl
@[simp] theorem State.resetRegisters_buf : s.resetRegisters.buf = s.buf := rfl
@[simp] theorem State.resetRegisters_cmdl : s.resetRegisters.cmdl = 0 := rfl
@[simp] theorem State.resetRegisters_snap : s.resetRegisters.snap = ⟨resetRegs, ⟨[], 0⟩⟩ := rfl
@[simp] theorem State.resetRegisters_inReset : s.resetRegisters.inReset = s.inReset := rfl
@[simp] theorem State.resetRegisters_resp : s.resetRegisters.resp = s.resp := rfl
@[simp] theorem State.resetRegisters_inputs : s.resetRegisters.inputs = s.inputs := rfl
@[simp] theorem State.resetRegisters_ivDraws : s.resetRegisters.ivDraws = s.ivDraws := rfl
@[simp] theorem State.resetRegisters_unspecCount : s.resetRegisters.unspecCount = s.unspecCount := rfl

/-! `hardReset` -/

@[simp] theorem hardReset_bufSel : (hardReset s).bufSel = s.bufSel := rfl
@[simp] theorem hardReset_irqEn : (hardReset s).irqEn = false := rfl
@[simp] theorem hardReset_cmd : (hardReset s).cmd = 0 := rfl
@[simp] theorem hardReset_eng : (hardReset s).eng = .idle := rfl
@[simp] theorem hardReset_done : (hardReset s).done = false := rfl
@[simp] theorem hardReset_chkWarn : (hardReset s).chkWarn = false := rfl
@[simp] theorem hardReset_overrun : (hardReset s).overrun = false := rfl
@[simp] theorem hardReset_accessErr : (hardReset s).accessErr = false := rfl
@[simp] theorem hardReset_errCode : (hardReset s).errCode = .none := rfl
@[simp] theorem hardReset_regs : (hardReset s).regs = resetRegs := rfl
@[simp] theorem hardReset_dstLen : (hardReset s).dstLen = 0 := rfl
@[simp] theorem hardReset_buf : (hardReset s).buf = ⟨[], s.buf.epoch + 1⟩ := rfl
@[simp] theorem hardReset_cmdl : (hardReset s).cmdl = 0 := rfl
@[simp] theorem hardReset_snap : (hardReset s).snap = ⟨resetRegs, ⟨[], 0⟩⟩ := rfl
@[simp] theorem hardReset_inReset : (hardReset s).inReset = true := rfl
@[simp] theorem hardReset_resp : (hardReset s).resp = .none := rfl
@[simp] theorem hardReset_inputs : (hardReset s).inputs = s.inputs := rfl
@[simp] theorem hardReset_ivDraws : (hardReset s).ivDraws = s.ivDraws := rfl
@[simp] theorem hardReset_unspecCount : (hardReset s).unspecCount = s.unspecCount := rfl

/-! `State.writeStatus` -/

@[simp] theorem State.writeStatus_bufSel (v : Word) : (s.writeStatus v).bufSel = s.bufSel := rfl
@[simp] theorem State.writeStatus_irqEn (v : Word) : (s.writeStatus v).irqEn = s.irqEn := rfl
@[simp] theorem State.writeStatus_cmd (v : Word) : (s.writeStatus v).cmd = s.cmd := rfl
@[simp] theorem State.writeStatus_eng (v : Word) : (s.writeStatus v).eng = s.eng := rfl
@[simp] theorem State.writeStatus_done (v : Word) : (s.writeStatus v).done = (s.done && !v.getLsbD 1) := rfl
@[simp] theorem State.writeStatus_chkWarn (v : Word) : (s.writeStatus v).chkWarn = (s.chkWarn && !v.getLsbD 3) := rfl
@[simp] theorem State.writeStatus_overrun (v : Word) : (s.writeStatus v).overrun = (s.overrun && !v.getLsbD 4) := rfl
@[simp] theorem State.writeStatus_accessErr (v : Word) : (s.writeStatus v).accessErr = (s.accessErr && !v.getLsbD 5) := rfl
@[simp] theorem State.writeStatus_errCode (v : Word) : (s.writeStatus v).errCode = s.errCode := rfl
@[simp] theorem State.writeStatus_regs (v : Word) : (s.writeStatus v).regs = s.regs := rfl
@[simp] theorem State.writeStatus_dstLen (v : Word) : (s.writeStatus v).dstLen = s.dstLen := rfl
@[simp] theorem State.writeStatus_buf (v : Word) : (s.writeStatus v).buf = s.buf := rfl
@[simp] theorem State.writeStatus_cmdl (v : Word) : (s.writeStatus v).cmdl = s.cmdl := rfl
@[simp] theorem State.writeStatus_snap (v : Word) : (s.writeStatus v).snap = s.snap := rfl
@[simp] theorem State.writeStatus_inReset (v : Word) : (s.writeStatus v).inReset = s.inReset := rfl
@[simp] theorem State.writeStatus_resp (v : Word) : (s.writeStatus v).resp = s.resp := rfl
@[simp] theorem State.writeStatus_inputs (v : Word) : (s.writeStatus v).inputs = s.inputs := rfl
@[simp] theorem State.writeStatus_ivDraws (v : Word) : (s.writeStatus v).ivDraws = s.ivDraws := rfl
@[simp] theorem State.writeStatus_unspecCount (v : Word) : (s.writeStatus v).unspecCount = s.unspecCount := rfl

/-! `dropWrite` -/

@[simp] theorem dropWrite_bufSel : (dropWrite s).bufSel = s.bufSel := rfl
@[simp] theorem dropWrite_irqEn : (dropWrite s).irqEn = s.irqEn := rfl
@[simp] theorem dropWrite_cmd : (dropWrite s).cmd = s.cmd := rfl
@[simp] theorem dropWrite_eng : (dropWrite s).eng = s.eng := rfl
@[simp] theorem dropWrite_done : (dropWrite s).done = s.done := rfl
@[simp] theorem dropWrite_chkWarn : (dropWrite s).chkWarn = s.chkWarn := rfl
@[simp] theorem dropWrite_overrun : (dropWrite s).overrun = s.overrun := rfl
@[simp] theorem dropWrite_accessErr : (dropWrite s).accessErr = true := rfl
@[simp] theorem dropWrite_errCode : (dropWrite s).errCode = s.errCode := rfl
@[simp] theorem dropWrite_regs : (dropWrite s).regs = s.regs := rfl
@[simp] theorem dropWrite_dstLen : (dropWrite s).dstLen = s.dstLen := rfl
@[simp] theorem dropWrite_buf : (dropWrite s).buf = s.buf := rfl
@[simp] theorem dropWrite_cmdl : (dropWrite s).cmdl = s.cmdl := rfl
@[simp] theorem dropWrite_snap : (dropWrite s).snap = s.snap := rfl
@[simp] theorem dropWrite_inReset : (dropWrite s).inReset = s.inReset := rfl
@[simp] theorem dropWrite_resp : (dropWrite s).resp = s.resp := rfl
@[simp] theorem dropWrite_inputs : (dropWrite s).inputs = s.inputs := rfl
@[simp] theorem dropWrite_ivDraws : (dropWrite s).ivDraws = s.ivDraws := rfl
@[simp] theorem dropWrite_unspecCount : (dropWrite s).unspecCount = s.unspecCount := rfl

/-! What depends on one field only -/

@[simp] theorem State.setCrc_bufSize (v : Word) : bufSize (s.setCrc v) = bufSize s := rfl
@[simp] theorem State.setDstLen_bufSize (n : Nat) : bufSize (s.setDstLen n) = bufSize s := rfl
@[simp] theorem State.warnIf_bufSize (m : Bool) : bufSize (s.warnIf m) = bufSize s := rfl
@[simp] theorem State.setKey_bufSize (k : Vector Word 8) : bufSize (s.setKey k) = bufSize s := rfl
@[simp] theorem State.setIv_bufSize (v : Vector Word 4) : bufSize (s.setIv v) = bufSize s := rfl
@[simp] theorem State.drawTaken_bufSize : bufSize s.drawTaken = bufSize s := rfl
@[simp] theorem State.memWrite_bufSize (a : Nat) (v : Bytes) : bufSize (s.memWrite a v) = bufSize s := rfl
@[simp] theorem State.memForget_bufSize (r : Region) : bufSize (s.memForget r) = bufSize s := rfl
@[simp] theorem State.complete_bufSize (e : ErrCode) : bufSize (s.complete e) = bufSize s := rfl
@[simp] theorem finish_bufSize : bufSize (finish s) = bufSize s := rfl
@[simp] theorem raise_bufSize (e : ErrCode) : bufSize (raise e s) = bufSize s := rfl
@[simp] theorem State.accept_bufSize (v : Word) : bufSize (s.accept v) = bufSize s := rfl
@[simp] theorem State.resetRegisters_bufSize : bufSize s.resetRegisters = bufSize s := rfl
@[simp] theorem hardReset_bufSize : bufSize (hardReset s) = bufSize s := rfl
@[simp] theorem State.writeStatus_bufSize (v : Word) : bufSize (s.writeStatus v) = bufSize s := rfl
@[simp] theorem dropWrite_bufSize : bufSize (dropWrite s) = bufSize s := rfl

end Sys2Proof.Machine
end

