-- ==== Sys2Proof/Laws/Ops.lean ====
section
/-! SUPPORT. What each shared operation can do, said once: the register files, `unspecified` bytes, the soft reset. -/

namespace Sys2Proof.Machine

/-! ### Register files (10_state.md R33) -/

theorem le32_fileWord {b : Bytes} {j : Nat} (h : 4 * j + 4 ≤ b.length) : le32 (fileWord b j) = (b.drop (4 * j)).take 4 := by
  obtain ⟨w, x, y, z, rest, he⟩ : ∃ w x y z rest, b.drop (4 * j) = w :: x :: y :: z :: rest := by
    have hl : 4 ≤ (b.drop (4 * j)).length := by simp; omega
    match hm : b.drop (4 * j), hl with
    | w :: x :: y :: z :: rest, _ => exact ⟨w, x, y, z, rest, rfl⟩
  simp only [fileWord, he, List.take_succ_cons, List.take_zero]
  exact le32_fromLE32 w x y z

theorem take_append_drop_take (b : Bytes) (i : Nat) : (b.drop i).take 4 ++ b.drop (i + 4) = b.drop i := by
  rw [← List.drop_drop, List.take_append_drop]

/-- A key file filled from 32 bytes holds those bytes. -/
theorem keyFileBytes_keyFileOf {b : Bytes} (h : b.length = 32) : keyFileBytes (keyFileOf b) = b := by
  have h32 : b.drop (4 * 7 + 4) = [] := List.drop_eq_nil_of_le (by omega)
  calc keyFileBytes (keyFileOf b)
      = le32 (fileWord b 0) ++ (le32 (fileWord b 1) ++ (le32 (fileWord b 2) ++ (le32 (fileWord b 3) ++
          (le32 (fileWord b 4) ++ (le32 (fileWord b 5) ++ (le32 (fileWord b 6) ++ (le32 (fileWord b 7) ++ []))))))) := rfl
    _ = b.drop 0 := by
      repeat rw [le32_fileWord (by omega)]
      rw [← h32]
      repeat rw [take_append_drop_take]
    _ = b := rfl

/-- An IV file filled from 16 bytes holds those bytes. -/
theorem fileBytes_ivFileOf {b : Bytes} (h : b.length = 16) : fileBytes (ivFileOf b).toList = b := by
  have h16 : b.drop (4 * 3 + 4) = [] := List.drop_eq_nil_of_le (by omega)
  calc fileBytes (ivFileOf b).toList
      = le32 (fileWord b 0) ++ (le32 (fileWord b 1) ++ (le32 (fileWord b 2) ++ (le32 (fileWord b 3) ++ []))) := rfl
    _ = b.drop 0 := by
      repeat rw [le32_fileWord (by omega)]
      rw [← h16]
      repeat rw [take_append_drop_take]
    _ = b := rfl

/-! ### `unspecified` bytes and the soft reset -/

theorem bufByte_memForget_out (s : State) (r : Region) {a : Nat} (h : ¬r.has a) :
    bufByte (s.memForget r).buf a = bufByte s.buf a :=
  bufByte_bufWrite_out _ _ _ (by simpa [Region.has] using h)

theorem clipRegion_le (s : State) (r : Region) : (clipRegion s r).addr + (clipRegion s r).len ≤ max r.addr (bufSize s) := by
  simp only [clipRegion]; omega

theorem has_of_clipRegion {s : State} {r : Region} {a : Nat} (h : (clipRegion s r).has a) : r.has a := by
  simp only [clipRegion, Region.has] at *; omega

/-- Everything a soft reset can do. -/
theorem softReset_cases (s : State) :
    softReset s = s.resetRegisters ∨
      ∃ i, s.eng = .busy ∧ decode s.cmdl = .ok i ∧ ∃ r, destRegion i s.snap.regs = some r ∧
        softReset s = (s.memForget (clipRegion s r)).resetRegisters := by
  unfold softReset
  cases hr : abortedRegion s with
  | none => exact .inl rfl
  | some r =>
    refine .inr ?_
    unfold abortedRegion at hr
    split at hr
    · next hb =>
      split at hr
      · next i hd => exact ⟨i, hb, hd, r, hr, rfl⟩
      · cases hr
    · cases hr

@[simp] theorem softReset_of_idle {s : State} (h : s.eng = .idle) : softReset s = s.resetRegisters := by
  simp [softReset, abortedRegion, h]

end Sys2Proof.Machine
end

