-- ==== Sys2Proof/Laws/Bus.lean ====
section
/-! SUPPORT. What the host port can do, said once: the address map, a read, a write. -/

namespace Sys2Proof.Machine

/-- The port allows exactly the accesses of R43. -/
theorem accessAllowed_eq_wellFormed (off : Offset) (w : Width) : accessAllowed off w = accessWellFormed off w := by
  have : decide (0x1000 ≤ off.toNat) = !decide (off.toNat < 0x1000) := by
    by_cases h : off.toNat < 0x1000 <;> simp [h, Nat.not_le.mpr, Nat.le_of_not_lt]
  cases w <;> simp only [accessAllowed, accessWellFormed, accessAligned, accessWidthAllowed, Width.bytes, this] <;> rfl

/-- Every register is found at its offset. -/
@[simp] theorem regAt_regOffset (r : RegName) : regAt (regOffset r) = some r := by
  cases r with
  | key i => revert i; decide
  | iv i => revert i; decide
  | _ => rfl

/-- Only a register's own offset finds it. -/
theorem regOffset_of_regAt {off : Nat} {r : RegName} (h : regAt off = some r) : regOffset r = off := by
  have := List.find?_some h
  simpa using this

theorem regOffset_lt (r : RegName) : regOffset r < 0x1000 := by
  cases r with
  | key i => simp only [regOffset]; omega
  | iv i => simp only [regOffset]; omega
  | _ => decide

theorem regOffset_aligned (r : RegName) : regOffset r % 4 = 0 := by
  cases r with
  | key i => simp only [regOffset]; omega
  | iv i => simp only [regOffset]; omega
  | _ => rfl

@[simp] theorem targetAt_register {s : State} {off : Offset} {r : RegName} (h : off.toNat = regOffset r) :
    targetAt s off = .register r := by
  have hl := regOffset_lt r
  simp [targetAt, h, hl]

theorem accessAllowed_register {off : Offset} {r : RegName} (h : off.toNat = regOffset r) : accessAllowed off .word = true := by
  have ha := regOffset_aligned r
  simp [accessAllowed, Width.bytes, h, ha]

/-- An offset of the BUF window reaches its byte of BUF. -/
theorem targetAt_buffer {s : State} {off : Offset} {a : Nat} (h : off.toNat = 0x01000000 + a) (ha : a < bufSize s) :
    targetAt s off = .buffer a := by
  unfold targetAt
  rw [if_neg (by omega), if_pos (by omega), h, Nat.add_sub_cancel_left]

/-- At a reserved offset nothing lies. -/
theorem targetAt_reserved {s : State} {off : Offset} (h : ReservedOffset s off) : targetAt s off = .reserved := by
  have none (hl : off.toNat < 0x1000) : regAt off.toNat = none := by
    rw [Option.eq_none_iff_forall_ne_some]
    intro r hr
    have ho := regOffset_of_regAt hr
    have hlt : regOffset r < 0x070 ∧ regOffset r ≠ 0x03C := by
      cases r with
      | key i => simp only [regOffset]; omega
      | iv i => simp only [regOffset]; omega
      | _ => decide
    rcases h with h | h | h | h <;> omega
  unfold targetAt
  split
  · next hl => rw [none hl]
  · rw [if_neg (by rintro ⟨h1, h2⟩; rcases h with h | h | h | h <;> omega)]

/-- The port's value of consecutive bytes of a word is those bits of the word. -/
theorem busValue_extract (v : Word) (k n : Nat) :
    busValue ((List.range n).map fun i => v.extractLsb' (8 * (k + i)) 8) = (v.extractLsb' (8 * k) (8 * n)).setWidth 32 := by
  apply BitVec.eq_of_getLsbD_eq
  intro i hi
  rw [busValue, fromLE32_getLsbD _ hi, BitVec.getLsbD_setWidth, BitVec.getLsbD_extractLsb']
  by_cases hn : i / 8 < n
  · simp [byteAt, hn, Nat.mod_lt, show i < 8 * n by omega, hi]
    congr 1; omega
  · simp [byteAt, hn, show ¬i < 8 * n by omega]

/-- A read changes the port's answer and the model's counter of `unspecified` events, and nothing else (20_memory.md R46). -/
theorem busRead_cases (s : State) (off : Offset) (w : Width) :
    ∃ r k, busRead s off w = { s with resp := r, unspecCount := k } := by
  unfold busRead readUnspecified
  split
  · exact ⟨_, s.unspecCount, rfl⟩
  · split
    · split
      · exact ⟨_, _, rfl⟩
      · exact ⟨_, s.unspecCount, rfl⟩
    · split
      · exact ⟨_, _, rfl⟩
      · exact ⟨_, s.unspecCount, rfl⟩
    · exact ⟨_, s.unspecCount, rfl⟩

/-- Everything a write of BUF or of a register other than CMD, CTRL and STATUS can do. -/
theorem writeWhileIdle_cases (s t : State) :
    (s.eng = .busy ∧ writeWhileIdle s t = { s with accessErr := true }) ∨ (s.eng = .idle ∧ writeWhileIdle s t = t) := by
  unfold writeWhileIdle
  split
  · next h => exact .inl ⟨h, rfl⟩
  · next h => exact .inr ⟨by cases hs : s.eng <;> simp_all, rfl⟩

/-- Everything an allowed write can do, before the port's answer: dropped and flagged while BUSY, ignored while IDLE or at a
reserved offset, or taken. -/
theorem writeTarget_cases (s : State) (off : Offset) (w : Width) (v : Word) :
    (s.eng = .busy ∧ writeTarget s off w v = { s with accessErr := true }) ∨
    ((s.eng = .idle ∨ targetAt s off = .reserved) ∧ writeTarget s off w v = s) ∨
    (targetAt s off = .register .ctrl ∧ writeTarget s off w v = writeCtrl s v) ∨
    (targetAt s off = .register .status ∧ writeTarget s off w v = s.writeStatus v) ∨
    (targetAt s off = .register .cmd ∧ s.eng = .busy ∧ writeTarget s off w v = { s with overrun := true }) ∨
    (targetAt s off = .register .cmd ∧ s.eng = .idle ∧ writeTarget s off w v = s.accept v) ∨
    (∃ r, targetAt s off = .register r ∧ s.eng = .idle ∧
      writeTarget s off w v = { s with regs := writeOperandReg s.regs r v }) ∨
    (∃ a, targetAt s off = .buffer a ∧ s.eng = .idle ∧
      writeTarget s off w v = { s with buf := bufWrite s.buf a (busBytes w v) }) := by
  unfold writeTarget
  split
  · next r hr =>
    cases r
    case ctrl => exact .inr (.inr (.inl ⟨hr, rfl⟩))
    case status => exact .inr (.inr (.inr (.inl ⟨hr, rfl⟩)))
    case cmd =>
      simp only [writeReg, writeCmd]
      split
      · next h => exact .inr (.inr (.inr (.inr (.inl ⟨hr, h, rfl⟩))))
      · next h => exact .inr (.inr (.inr (.inr (.inr (.inl ⟨hr, by cases hs : s.eng <;> simp_all, rfl⟩)))))
    case id | caps | dstLen => exact (writeWhileIdle_cases s s).imp id fun h => .inl ⟨.inl h.1, h.2⟩
    all_goals
      exact (writeWhileIdle_cases s _).imp id fun h => .inr (.inr (.inr (.inr (.inr (.inl ⟨_, hr, h⟩)))))
  · next a ha =>
    exact (writeWhileIdle_cases s _).imp id fun h => .inr (.inr (.inr (.inr (.inr (.inr ⟨a, ha, h⟩)))))
  · next hr => exact .inr (.inl ⟨.inr hr, rfl⟩)

end Sys2Proof.Machine
end

