-- ==== Sys2Proof/Laws/Exec.lean ====
section
/-! SUPPORT. What a command can do, said once: the inversion lemma of each meaning. A command either fails at an operand check
and answers `raise e s`, or runs as its rule's pseudocode says. -/

namespace Sys2Proof.Machine

/-- Everything CRC_COMPUTE can do. -/
theorem execCrcCompute_cases {s t : State} (h : execCrcCompute s = .next t) :
    t = raise .badRange s ∨
    (InRange s (srcRegion s.snap.regs) ∧
      t = finish ((s.setCrc (checksum (memRead s (srcRegion s.snap.regs)))).setDstLen 0)) := by
  simp only [execCrcCompute, Host.Outcome.next.injEq] at h
  split at h
  · exact .inl h.symm
  · next hr => exact .inr ⟨not_not.mp hr, h.symm⟩

/-- Everything CRC_UPDATE can do. -/
theorem execCrcUpdate_cases {s t : State} (h : execCrcUpdate s = .next t) :
    t = raise .badRange s ∨
    (InRange s (srcRegion s.snap.regs) ∧
      t = finish ((s.setCrc (crc s.snap.regs.crcValue (memRead s (srcRegion s.snap.regs)))).setDstLen 0)) := by
  simp only [execCrcUpdate, Host.Outcome.next.injEq] at h
  split at h
  · exact .inl h.symm
  · next hr => exact .inr ⟨not_not.mp hr, h.symm⟩

/-- Everything CRC_VERIFY can do. -/
theorem execCrcVerify_cases {s t : State} (h : execCrcVerify s = .next t) :
    (∃ e, t = raise e s ∧ (e = .badLength ∨ e = .badRange)) ∨
    (4 ≤ (srcRegion s.snap.regs).len ∧ InRange s (srcRegion s.snap.regs) ∧
      t = finish (((s.setCrc (verify (memRead s (srcRegion s.snap.regs))).1).warnIf
        (verify (memRead s (srcRegion s.snap.regs))).2).setDstLen 0)) := by
  simp only [execCrcVerify, Host.Outcome.next.injEq] at h
  split at h
  · exact .inl ⟨_, h.symm, by simp⟩
  · split at h
    · exact .inl ⟨_, h.symm, by simp⟩
    · next hl hr => exact .inr ⟨Nat.le_of_not_lt hl, not_not.mp hr, h.symm⟩

/-- Everything CRC_APPEND can do. -/
theorem execCrcAppend_cases {s t : State} (h : execCrcAppend s = .next t) :
    t = raise .badRange s ∨
    (InRange s (trailerRegion s.snap.regs) ∧
      t = finish (((s.memWrite (trailerRegion s.snap.regs).addr
        (le32 (checksum (memRead s (srcRegion s.snap.regs))))).setCrc
          (checksum (memRead s (srcRegion s.snap.regs)))).setDstLen 4)) := by
  simp only [execCrcAppend, Host.Outcome.next.injEq] at h
  split at h
  · exact .inl h.symm
  · next hr => exact .inr ⟨by simp only [InRange, trailerRegion, srcRegion] at *; omega, h.symm⟩

/-- Everything KDF_BUF can do. -/
theorem execKdfBuf_cases {salt : SaltSel} {s t : State} (h : execKdfBuf salt s = .next t) :
    (∃ e, t = raise e s ∧ (e = .invalidParameter ∨ e = .badRange ∨ e = .overlap)) ∨
    (s.snap.regs.kdfIter ≠ 0 ∧ s.snap.regs.outLen ≠ 0 ∧ InRange s (srcRegion s.snap.regs) ∧ SaltInRange s salt ∧
      InRange s (dstRegion s.snap.regs s.snap.regs.outLen.toNat) ∧
      t = finish ((s.memWrite s.snap.regs.dstAddr.toNat
        (kdf kdfHash (memRead s (srcRegion s.snap.regs)) (saltBytes s salt) s.snap.regs.kdfIter.toNat
          s.snap.regs.outLen.toNat)).setDstLen s.snap.regs.outLen.toNat)) := by
  simp only [execKdfBuf, Host.Outcome.next.injEq] at h
  split at h
  · exact .inl ⟨_, h.symm, by simp⟩
  split at h
  · exact .inl ⟨_, h.symm, by simp⟩
  split at h
  · exact .inl ⟨_, h.symm, by simp⟩
  split at h
  · exact .inl ⟨_, h.symm, by simp⟩
  split at h
  · exact .inl ⟨_, h.symm, by simp⟩
  split at h
  · exact .inl ⟨_, h.symm, by simp⟩
  · next h1 h2 h3 h4 h5 h6 =>
    exact .inr ⟨fun e => h1 (.inl e), fun e => h1 (.inr e), not_not.mp h2, not_not.mp h3, not_not.mp h4, h.symm⟩

/-- Everything KDF_KEY can do. -/
theorem execKdfKey_cases {salt : SaltSel} {s t : State} (h : execKdfKey salt s = .next t) :
    (∃ e, t = raise e s ∧ (e = .badKeyLen ∨ e = .invalidParameter ∨ e = .badRange)) ∨
    (KeyLenOk s.snap.regs ∧ s.snap.regs.kdfIter ≠ 0 ∧ InRange s (srcRegion s.snap.regs) ∧ SaltInRange s salt ∧
      t = finish ((s.setKey (keyFileOf (kdf kdfHash (memRead s (srcRegion s.snap.regs)) (saltBytes s salt)
        s.snap.regs.kdfIter.toNat s.snap.regs.keyLen.toNat ++ rep (32 - s.snap.regs.keyLen.toNat) 0x00))).setDstLen
          s.snap.regs.keyLen.toNat)) := by
  simp only [execKdfKey, Host.Outcome.next.injEq] at h
  split at h
  · exact .inl ⟨_, h.symm, by simp⟩
  split at h
  · exact .inl ⟨_, h.symm, by simp⟩
  split at h
  · exact .inl ⟨_, h.symm, by simp⟩
  split at h
  · exact .inl ⟨_, h.symm, by simp⟩
  · next h1 h2 h3 h4 => exact .inr ⟨not_not.mp h1, h2, not_not.mp h3, not_not.mp h4, h.symm⟩

/-- Everything the common rule of CBC_ENC and CBC_DEC can do. -/
theorem cbcCommand_cases (f : Bytes → Bytes → Bytes → Bytes) (s : State) :
    (∃ e, cbcCommand f s = raise e s ∧ (e = .badKeyLen ∨ e = .badLength ∨ e = .badRange ∨ e = .overlap)) ∨
    (KeyLenOk s.snap.regs ∧ s.snap.regs.srcLen.toNat % 16 = 0 ∧ InRange s (srcRegion s.snap.regs) ∧
      InRange s (dstRegion s.snap.regs s.snap.regs.srcLen.toNat) ∧
      cbcCommand f s = finish ((s.memWrite s.snap.regs.dstAddr.toNat
        (f (keyBytes s.snap.regs) (ivBytes s.snap.regs) (memRead s (srcRegion s.snap.regs)))).setDstLen
          s.snap.regs.srcLen.toNat)) := by
  simp only [cbcCommand]
  split
  · exact .inl ⟨_, rfl, by simp⟩
  split
  · exact .inl ⟨_, rfl, by simp⟩
  split
  · exact .inl ⟨_, rfl, by simp⟩
  split
  · exact .inl ⟨_, rfl, by simp⟩
  split
  · exact .inl ⟨_, rfl, by simp⟩
  · next h1 h2 h3 h4 h5 => exact .inr ⟨not_not.mp h1, not_not.mp h2, not_not.mp h3, not_not.mp h4, rfl⟩

/-- Everything PAD can do. -/
theorem execPad_cases {s t : State} (h : execPad s = .next t) :
    (∃ e, t = raise e s ∧ (e = .badRange ∨ e = .overlap)) ∨
    (InRange s (srcRegion s.snap.regs) ∧
      InRange s (dstRegion s.snap.regs (s.snap.regs.srcLen.toNat + padLen s.snap.regs.srcLen.toNat)) ∧
      t = finish ((s.memWrite s.snap.regs.dstAddr.toNat (padBytes (memRead s (srcRegion s.snap.regs)))).setDstLen
        (s.snap.regs.srcLen.toNat + padLen s.snap.regs.srcLen.toNat))) := by
  simp only [execPad, Host.Outcome.next.injEq] at h
  split at h
  · exact .inl ⟨_, h.symm, by simp⟩
  split at h
  · exact .inl ⟨_, h.symm, by simp⟩
  split at h
  · exact .inl ⟨_, h.symm, by simp⟩
  · next h1 h2 h3 => exact .inr ⟨not_not.mp h1, not_not.mp h2, h.symm⟩

/-- Everything UNPAD can do. -/
theorem execUnpad_cases {mode : PadMode} {s t : State} (h : execUnpad mode s = .next t) :
    (∃ e, t = raise e s ∧ (e = .badLength ∨ e = .badRange ∨ e = .overlap ∨ e = .badPadding)) ∨
    (0 < s.snap.regs.srcLen.toNat ∧ InRange s (srcRegion s.snap.regs) ∧
      InRange s (dstRegion s.snap.regs s.snap.regs.srcLen.toNat) ∧
      (mode = .strict → PadValid (memRead s (srcRegion s.snap.regs))) ∧
      t = finish ((s.memWrite s.snap.regs.dstAddr.toNat (unpadL (memRead s (srcRegion s.snap.regs)))).setDstLen
        (unpadL (memRead s (srcRegion s.snap.regs))).length)) := by
  simp only [execUnpad, Host.Outcome.next.injEq] at h
  split at h
  · exact .inl ⟨_, h.symm, by simp⟩
  split at h
  · exact .inl ⟨_, h.symm, by simp⟩
  split at h
  · exact .inl ⟨_, h.symm, by simp⟩
  split at h
  · exact .inl ⟨_, h.symm, by simp⟩
  split at h
  · exact .inl ⟨_, h.symm, by simp⟩
  · next h1 h2 h3 h4 h5 =>
    exact .inr ⟨Nat.pos_of_ne_zero h1, not_not.mp h2, not_not.mp h3,
      fun hm => not_not.mp fun hp => h5 ⟨hm, hp⟩, h.symm⟩

/-- DECODE's state after step 1: the computed checksum and the warning (43_container.md R100). -/
def decodeWarned (s : State) : State :=
  (s.setCrc (verify (memRead s (srcRegion s.snap.regs))).1).warnIf (verify (memRead s (srcRegion s.snap.regs))).2

/-- DECODE's decrypted buffer (43_container.md R100, step 3). -/
def decodePlain (s : State) : Bytes := containerDecrypt (keyBytes s.snap.regs) (memRead s (srcRegion s.snap.regs))

/-- Everything DECODE can do. -/
theorem execDecode_cases {mode : PadMode} {s t : State} (h : execDecode mode s = .next t) :
    (∃ e, t = raise e s ∧ (e = .badKeyLen ∨ e = .malformedContainer ∨ e = .badRange ∨ e = .overlap)) ∨
    (KeyLenOk s.snap.regs ∧ 20 < s.snap.regs.srcLen.toNat ∧ (s.snap.regs.srcLen.toNat - 20) % 16 = 0 ∧
      InRange s (srcRegion s.snap.regs) ∧ InRange s (dstRegion s.snap.regs (s.snap.regs.srcLen.toNat - 20)) ∧
      ((((mode = .strict ∧ ¬PadValid (decodePlain s)) ∨ Config.structuredValid (unpadL (decodePlain s)) = false) ∧
        t = raise .decryptionFailed
          ((decodeWarned s).memForget (dstRegion s.snap.regs (s.snap.regs.srcLen.toNat - 20)))) ∨
       ((mode = .strict → PadValid (decodePlain s)) ∧ Config.structuredValid (unpadL (decodePlain s)) = true ∧
        t = finish (((decodeWarned s).memWrite s.snap.regs.dstAddr.toNat (unpadL (decodePlain s))).setDstLen
          (unpadL (decodePlain s)).length)))) := by
  simp only [execDecode, Host.Outcome.next.injEq] at h
  split at h
  · exact .inl ⟨_, h.symm, by simp⟩
  split at h
  · exact .inl ⟨_, h.symm, by simp⟩
  split at h
  · exact .inl ⟨_, h.symm, by simp⟩
  split at h
  · exact .inl ⟨_, h.symm, by simp⟩
  split at h
  · exact .inl ⟨_, h.symm, by simp⟩
  split at h
  · exact .inl ⟨_, h.symm, by simp⟩
  · next h1 h2 h3 h4 h5 h6 =>
    refine .inr ⟨not_not.mp h1, Nat.lt_of_not_le h2, not_not.mp h3, not_not.mp h4, not_not.mp h5, ?_⟩
    split at h
    · next hs => exact .inl ⟨.inl hs, h.symm⟩
    · next hs =>
      split at h
      · next hv => exact .inl ⟨.inr (Bool.eq_false_of_not_eq_true hv), h.symm⟩
      · next hv => exact .inr ⟨fun hm => not_not.mp fun hp => hs ⟨hm, hp⟩, not_not.mp hv, h.symm⟩

/-- ENCODE's assembled `iv || ct` (43_container.md R101, step 5). -/
def encodeBody (s : State) : Bytes :=
  containerBody (keyBytes s.snap.regs) (nextDraw s) (memRead s (srcRegion s.snap.regs))

/-- Everything ENCODE can do. -/
theorem execEncode_cases {s t : State} (h : execEncode s = .next t) :
    (∃ e, t = raise e s ∧ (e = .badKeyLen ∨ e = .badRange ∨ e = .overlap ∨ e = .invalidPlaintext)) ∨
    (KeyLenOk s.snap.regs ∧ InRange s (srcRegion s.snap.regs) ∧
      InRange s (dstRegion s.snap.regs (containerLen s.snap.regs.srcLen.toNat)) ∧
      Config.structuredValid (memRead s (srcRegion s.snap.regs)) = true ∧
      t = finish ((((s.drawTaken.memWrite s.snap.regs.dstAddr.toNat
        (encodeBody s ++ le32 (checksum (encodeBody s)))).setIv (ivFileOf (nextDraw s))).setCrc
          (checksum (encodeBody s))).setDstLen (containerLen s.snap.regs.srcLen.toNat))) := by
  simp only [execEncode, Host.Outcome.next.injEq] at h
  split at h
  · exact .inl ⟨_, h.symm, by simp⟩
  split at h
  · exact .inl ⟨_, h.symm, by simp⟩
  split at h
  · exact .inl ⟨_, h.symm, by simp⟩
  split at h
  · exact .inl ⟨_, h.symm, by simp⟩
  split at h
  · exact .inl ⟨_, h.symm, by simp⟩
  · next h1 h2 h3 h4 h5 => exact .inr ⟨not_not.mp h1, not_not.mp h2, not_not.mp h3, not_not.mp h5, h.symm⟩

end Sys2Proof.Machine
end

