-- ==== Sys2Proof/Laws/PerInstr.lean ====
section
/-! SUPPORT. Facts about every command as syntax, one lemma per constructor of Instr. -/

/-- The fields of a command's word stand where 30_encoding.md R57 puts them: OPCODE in [7:0], SALT_SEL in [8], STRICT in [9], zeros in
[31:10], and the option bits are set for the commands that have them only. -/
def Sys2Proof.Laws.FieldsInPlace.Statement (i : Sys2Proof.Instr) : Prop :=
  Sys2Proof.opcodeField (Sys2Proof.encode i) = Sys2Proof.opcodeByte (Sys2Proof.opcodeOf i) ∧
  Sys2Proof.saltSelBit (Sys2Proof.encode i) = Sys2Proof.saltBitOf i ∧
  Sys2Proof.strictBit (Sys2Proof.encode i) = Sys2Proof.strictBitOf i ∧
  Sys2Proof.reservedField (Sys2Proof.encode i) = 0 ∧
  (Sys2Proof.saltBitOf i = true → Sys2Proof.takesSaltSel (Sys2Proof.opcodeOf i) = true) ∧
  (Sys2Proof.strictBitOf i = true → Sys2Proof.takesStrict (Sys2Proof.opcodeOf i) = true)

namespace Sys2Proof.Laws.FieldsInPlace

theorem crcCompute : Statement .crcCompute := by unfold Statement; decide
theorem crcUpdate : Statement .crcUpdate := by unfold Statement; decide
theorem crcVerify : Statement .crcVerify := by unfold Statement; decide
theorem crcAppend : Statement .crcAppend := by unfold Statement; decide
theorem kdfBuf (salt : SaltSel) : Statement (.kdfBuf salt) := by unfold Statement; cases salt <;> decide
theorem kdfKey (salt : SaltSel) : Statement (.kdfKey salt) := by unfold Statement; cases salt <;> decide
theorem cbcEnc : Statement .cbcEnc := by unfold Statement; decide
theorem cbcDec : Statement .cbcDec := by unfold Statement; decide
theorem pad : Statement .pad := by unfold Statement; decide
theorem unpad (mode : PadMode) : Statement (.unpad mode) := by unfold Statement; cases mode <;> decide
theorem decode (mode : PadMode) : Statement (.decode mode) := by unfold Statement; cases mode <;> decide
theorem encode : Statement .encode := by unfold Statement; decide

end Sys2Proof.Laws.FieldsInPlace
end

