-- ==== Sys2Proof/Laws/Step.lean ====
section
/-! SUPPORT. What a step can do, said once. -/

namespace Sys2Proof.Machine

/-- A step whose next input is a read is that read. -/
theorem step_read {s : State} {off : Offset} {w : Width} {rest : List HostInput} (hr : s.inReset = false)
    (hi : s.inputs = .read off w :: rest) : step s = .next (busRead { s with inputs := rest } off w) := by
  simp [step, stepOnce, hi, takeInput, hostAccess, hr]

/-- A step whose next input is an allowed write is that write. -/
theorem step_write {s : State} {off : Offset} {w : Width} {v : Word} {rest : List HostInput} (hr : s.inReset = false)
    (hi : s.inputs = .write off w v :: rest) (hw : accessWellFormed off w = true) :
    step s = .next { writeTarget { s with inputs := rest } off w v with resp := .written } := by
  rw [← accessAllowed_eq_wellFormed] at hw
  simp [step, stepOnce, hi, takeInput, hostAccess, hr, busWrite, hw]

/-- Everything a step that goes on can do. -/
theorem step_cases {s t : State} (h : step s = .next t) :
    (s.inputs = [] ∧ engineTurn s = .next t) ∨
    (∃ rest, s.inputs = .engineTurn :: rest ∧ engineTurn { s with inputs := rest } = .next t) ∨
    (∃ off w rest, s.inputs = .read off w :: rest ∧ s.inReset = false ∧ t = busRead { s with inputs := rest } off w) ∨
    (∃ off w v rest, s.inputs = .write off w v :: rest ∧ s.inReset = false ∧
      t = busWrite { s with inputs := rest } off w v) ∨
    (∃ rest, s.inputs = .assertReset :: rest ∧ t = hardReset { s with inputs := rest }) ∨
    (∃ rest, s.inputs = .releaseReset :: rest ∧ t = releaseReset { s with inputs := rest }) := by
  unfold step stepOnce at h
  split at h
  · exact .inl ⟨‹_›, h⟩
  · next i rest hi =>
    cases i with
    | engineTurn => exact .inr (.inl ⟨rest, hi, h⟩)
    | assertReset =>
      simp only [takeInput, Host.Outcome.next.injEq] at h
      exact .inr (.inr (.inr (.inr (.inl ⟨rest, hi, h.symm⟩))))
    | releaseReset =>
      simp only [takeInput, Host.Outcome.next.injEq] at h
      exact .inr (.inr (.inr (.inr (.inr ⟨rest, hi, h.symm⟩))))
    | read off w =>
      simp only [takeInput, hostAccess] at h
      split at h
      · cases h
      · next hr =>
        simp only [Host.Outcome.next.injEq] at h
        exact .inr (.inr (.inl ⟨off, w, rest, hi, by simpa using hr, h.symm⟩))
    | write off w v =>
      simp only [takeInput, hostAccess] at h
      split at h
      · cases h
      · next hr =>
        simp only [Host.Outcome.next.injEq] at h
        exact .inr (.inr (.inr (.inl ⟨off, w, v, rest, hi, by simpa using hr, h.symm⟩)))

/-- Everything the engine's turn can do. -/
theorem engineTurn_cases {s t : State} (h : engineTurn s = .next t) :
    (s.eng = .idle ∧ t = s) ∨
    (s.eng = .busy ∧ ((∃ i, decode s.cmdl = .ok i ∧ exec i s = .next t) ∨
      (∃ r, decode s.cmdl = .error r ∧ t = raise .illegalCmd s))) := by
  unfold engineTurn at h
  split at h
  · next hb =>
    refine .inr ⟨hb, ?_⟩
    split at h
    · next i hd => exact .inl ⟨i, hd, h⟩
    · next r hd =>
      simp only [Host.Outcome.next.injEq] at h
      exact .inr ⟨r, hd, h.symm⟩
  · next hb =>
    simp only [Host.Outcome.next.injEq] at h
    exact .inl ⟨by cases he : s.eng <;> simp_all, h.symm⟩

/-- The fields `withFetchWord` leaves alone. -/
theorem withFetchWord_kept (s : State) (nbits w : Nat) :
    (s.withFetchWord nbits w).regs = s.regs ∧ (s.withFetchWord nbits w).buf = s.buf ∧
      (s.withFetchWord nbits w).bufSel = s.bufSel ∧ (s.withFetchWord nbits w).irqEn = s.irqEn := ⟨rfl, rfl, rfl, rfl⟩

end Sys2Proof.Machine
end

