-- ==== Sys2Proof/Machine/HostProgram.lean ====
section
/-! DEFINITION. The host-program notation of spec/30_encoding.md R66 and R67, and the transcode sequence of
spec/43_container.md R103, as the lists of host inputs they stand for. They are not part of the block: they say how a host
brings a command to run. -/

namespace Sys2Proof.Machine

/-- `off(NAME)` as an offset of the aperture (R66). -/
def regOff (r : RegName) : Offset := BitVec.ofNat 25 (regOffset r)

/-- `wr NAME, VALUE` (R66). -/
def wr (r : RegName) (v : Word) : HostInput := .write (regOff r) .word v

/-- `rd NAME` (R66). -/
def rd (r : RegName) : HostInput := .read (regOff r) .word

/-- `cmd MNEMONIC[.FIXSALT][.STRICT]` (R66). -/
def cmdWrite (i : Instr) : HostInput := wr .cmd (encode i)

/-- The host offset of BUF byte `a` (20_memory.md R41). -/
def bufOff (a : Nat) : Offset := BitVec.ofNat 25 (0x01000000 + a)

/-- `buf A, HEXBYTES` (R66): 4-byte little-endian writes where aligned, single-byte writes otherwise; `fuel` bounds the writes. -/
def bufLoadFrom : Nat → Nat → Bytes → List HostInput
  | 0, _, _ => []
  | fuel + 1, a, bs =>
    if bs.length = 0 then []
    else if a % 4 = 0 ∧ 4 ≤ bs.length then
      .write (bufOff a) .word (fromLE32 (bs.take 4)) :: bufLoadFrom fuel (a + 4) (bs.drop 4)
    else .write (bufOff a) .byte ((byteAt bs 0).setWidth 32) :: bufLoadFrom fuel (a + 1) (bs.drop 1)

/-- `buf A, HEXBYTES` (R66). -/
def bufLoad (a : Nat) (bs : Bytes) : List HostInput := bufLoadFrom bs.length a bs

/-- `wait` (R67) when the command completes after `polls` reads of STATUS that still show BUSY: the loop ends at the read after it. -/
def waitDone (polls : Nat) : List HostInput := List.replicate polls (rd .status) ++ [.engineTurn, rd .status]

/-- `run MNEMONIC[...]` (R67). -/
def runCmd (i : Instr) (polls : Nat) : List HostInput := cmdWrite i :: waitDone polls

/-- `ack` (R67): clears DONE, CHK_WARN, OVERRUN and ACCESS_ERR. -/
def ack : HostInput := wr .status 0x0000003A

/-- `setkey HEXBYTES` (R67): unused key words are written 0. -/
def setKeyWrites (k : Bytes) : List HostInput :=
  (List.finRange 8).map (fun i => wr (.key i) (fileWord k i.val)) ++ [wr .keyLen (BitVec.ofNat 32 k.length)]

/-- `setiv HEXBYTES` (R67). -/
def setIvWrites (v : Bytes) : List HostInput := (List.finRange 4).map fun i => wr (.iv i) (fileWord v i.val)

/-- The two writes that name the source region. -/
def setSrc (r : Region) : List HostInput :=
  [wr .srcAddr (BitVec.ofNat 32 r.addr), wr .srcLen (BitVec.ofNat 32 r.len)]

/-- The source's `transcode` (43_container.md R103) as its four commands, one list each: the host sends the next list only when the
one before it left ERRCODE = 0, and takes the plaintext's length from DST_LEN after the second. -/
def transcode (id1 container id2 : Region) (plainAddr plainLen outAddr : Nat) : List (List HostInput) :=
  [ setSrc id1 ++ runCmd (.kdfKey .fixedSalt) 0,
    setSrc container ++ [wr .dstAddr (BitVec.ofNat 32 plainAddr)] ++ runCmd (.decode .lenient) 0 ++ [rd .dstLen],
    setSrc id2 ++ runCmd (.kdfKey .fixedSalt) 0,
    setSrc ⟨plainAddr, plainLen⟩ ++ [wr .dstAddr (BitVec.ofNat 32 outAddr)] ++ runCmd .encode 0 ++ [rd .dstLen] ]

end Sys2Proof.Machine
end

