-- ==== Sys2Proof/Tests/Slice0.lean ====
section
/-! SUPPORT. Tests: command words written out from spec/30_encoding.md, ill-formed terms that each check refuses, known answers of
spec/45_primitives.md and spec/95_test_vectors.md, one step of each command on a small state, and for every statement with
hypotheses a concrete state and operands that meet them (`test_witness_…`). The expected values are the spec's. -/

namespace Sys2Proof.Tests

open Sys2Proof.Machine

/-! ### Helpers -/

/-- `n` bytes written as one number, byte 0 in the top bits, as spec/95_test_vectors.md writes them. -/
def hexBytes (n v : Nat) : Bytes := (List.range n).map fun i => BitVec.ofNat 8 (v / 256 ^ (n - 1 - i))

/-- The BUF cells that hold `b` from `a` on. -/
def place (a : Nat) (b : Bytes) : Memory := (List.range b.length).map fun i => (a + i, byteAt b i)

/-- The engine right before a command with operand registers `o` over BUF cells `m` runs. -/
def running (o : OperandRegs) (m : Memory) : State :=
  { State.reset with regs := o, buf := ⟨m, 0⟩, snap := ⟨o, ⟨m, 0⟩⟩, eng := .busy }

/-- The reset state, with these inputs to come. -/
def given (l : List HostInput) : State := { State.reset with inputs := l }

/-- Both ends of each reserved range of the aperture, BUF_SIZE = 2^20. -/
def reservedEnds : List Offset := [0x03C, 0x070, 0xFFC, 0x1000, 0x00FFFFFF, 0x01100000, 0x01FFFFFF]

/-- A state whose engine runs CRC_COMPUTE over nothing, with these inputs to come. -/
def busyGiven (l : List HostInput) : State := { running resetRegs [] with cmd := 1, cmdl := 1, inputs := l }

/-- The state a step or a command leaves. -/
def after : Host.Outcome State Fault Refusal → State
  | .next t => t
  | .fault _ => State.reset
  | .refused _ => State.reset

/-- Operand registers with a source. -/
def src (a n : Nat) : OperandRegs := { resetRegs with srcAddr := BitVec.ofNat 32 a, srcLen := BitVec.ofNat 32 n }

/-- Operand registers with a source and a destination. -/
def srcDst (a n d : Nat) : OperandRegs := { src a n with dstAddr := BitVec.ofNat 32 d }

/-- The plaintext of the source's scenario (V-PAD-3). -/
def gold : Bytes := hexBytes 12 0x7B22676F6C64223A3130307D

/-- The container of V-CON-1. -/
def goldContainer : Bytes :=
  hexBytes 36 0x00112233445566778899AABBCCDDEEFF56932174E37FAD192D7A468186C5A9E31A031ABA

/-- The key K1 of spec/95_test_vectors.md, as V-KDF-17 gives its words. -/
def key1 : Vector Word 8 :=
  #v[0x91E3BE1D, 0x2F82E510, 0x7DA97F64, 0x551F214A, 0xA31F11BC, 0x902229C6, 0x5B1DBC9C, 0x82E1B342]

/-- A CBC command over one block at 0, its result at 16, with a key file, a KEY_LEN and the IV 000102…0F. -/
def cbcState (key : Bytes) (keyLen : Word) (block : Bytes) : State :=
  running { srcDst 0 16 16 with
    key := keyFileOf (key ++ rep (32 - key.length) 0)
    keyLen := keyLen
    iv := ivFileOf (hexBytes 16 0x000102030405060708090A0B0C0D0E0F) } (place 0 block)

/-- A KDF command with the secret "abc" at 0, an empty salt and one iteration. -/
def kdfState (dst out : Nat) : State :=
  running { srcDst 0 3 dst with kdfIter := 1, outLen := BitVec.ofNat 32 out, keyLen := 16 } (place 0 (hexBytes 3 0x616263))

/-- DECODE of V-CON-1 with K1, its plaintext to go to 0x800. -/
def decodeState : State := running { srcDst 0 36 0x800 with key := key1 } (place 0 goldContainer)

/-- ENCODE of the source's plaintext, its container to go to 0x100. -/
def encodeState : State := running { srcDst 0 12 0x100 with key := key1 } (place 0 gold)

/-- UNPAD of sixteen bytes at 0, the result to go to 16. -/
def unpadState (b : Bytes) : State := running (srcDst 0 16 16) (place 0 b)

/-! ### Decoding: one written-out word for every constructor (30_encoding.md R59; V-ENC-5), and the encoder's word for it -/

theorem test_word_crcCompute : decode 0x00000001 = .ok .crcCompute ∧ encode .crcCompute = 0x00000001 := by decide
theorem test_word_crcUpdate : decode 0x00000002 = .ok .crcUpdate ∧ encode .crcUpdate = 0x00000002 := by decide
theorem test_word_crcVerify : decode 0x00000003 = .ok .crcVerify ∧ encode .crcVerify = 0x00000003 := by decide
theorem test_word_crcAppend : decode 0x00000004 = .ok .crcAppend ∧ encode .crcAppend = 0x00000004 := by decide
theorem test_word_kdfBuf :
    decode 0x00000010 = .ok (.kdfBuf .auxRegion) ∧ decode 0x00000110 = .ok (.kdfBuf .fixedSalt) ∧
    encode (.kdfBuf .fixedSalt) = 0x00000110 := by decide
theorem test_word_kdfKey :
    decode 0x00000011 = .ok (.kdfKey .auxRegion) ∧ decode 0x00000111 = .ok (.kdfKey .fixedSalt) ∧
    encode (.kdfKey .auxRegion) = 0x00000011 := by decide
theorem test_word_cbcEnc : decode 0x00000020 = .ok .cbcEnc ∧ encode .cbcEnc = 0x00000020 := by decide
theorem test_word_cbcDec : decode 0x00000021 = .ok .cbcDec ∧ encode .cbcDec = 0x00000021 := by decide
theorem test_word_pad : decode 0x00000022 = .ok .pad ∧ encode .pad = 0x00000022 := by decide
theorem test_word_unpad :
    decode 0x00000023 = .ok (.unpad .lenient) ∧ decode 0x00000223 = .ok (.unpad .strict) ∧
    encode (.unpad .strict) = 0x00000223 := by decide
theorem test_word_decode :
    decode 0x00000030 = .ok (.decode .lenient) ∧ decode 0x00000230 = .ok (.decode .strict) ∧
    encode (.decode .strict) = 0x00000230 := by decide
theorem test_word_encode : decode 0x00000031 = .ok .encode ∧ encode .encode = 0x00000031 := by decide

/-- V-ENC-1 to V-ENC-4 and V-ENC-6: each illegal word is refused by the first check of R63 it fails. -/
theorem test_decode_refuses :
    decode 0x000000FF = .error .undefinedOpcode ∧ decode 0x80000030 = .error .reservedBits ∧
    decode 0x00000123 = .error .saltSelNotAllowed ∧ decode 0x00000231 = .error .strictNotAllowed := by decide

theorem test_table_word : decodeTableWord 32 0x00000031 = some .encode ∧ decodeTableWord 32 0x00000401 = none := by decide

/-! ### WellFormed: an ill-formed term for each check -/

theorem test_wellformed_refuses_undefined_opcode : wordWellFormed 0x00000005 = false := by decide
theorem test_wellformed_refuses_reserved_bit : wordWellFormed 0x00000401 = false := by decide
theorem test_wellformed_refuses_salt_sel : wordWellFormed 0x00000101 = false := by decide
theorem test_wellformed_refuses_strict : wordWellFormed 0x00000210 = false := by decide
theorem test_wellformed_refuses_misaligned : accessAligned 0x01000002 .word = false ∧ accessWellFormed 0x01000001 .half = false := by
  decide
theorem test_wellformed_refuses_narrow_register_access : accessWidthAllowed 0x014 .byte = false ∧ accessWellFormed 0x014 .half = false := by
  decide
theorem test_wellformed_refuses_input : inputWellFormed (.write 0x0FC .byte 0) = false ∧ inputWellFormed (.read 0x012 .word) = false := by
  decide

/-! ### Known answers -/

/-- V-CRC-8. -/
theorem test_crc_table :
    crcTable 0x82F63B78 0x01 = 0xF26B8303 ∧ crcTable 0x82F63B78 0x02 = 0xE13B70F7 ∧ crcTable 0x82F63B78 0xFF = 0xAD7D5351 := by decide

/-- V-CRC-10 and V-CRC-11. -/
theorem test_crc_fold :
    crcFold 0x82F63B78 0x12345678 (hexBytes 9 0x313233343536373839) = 0x9C3D13C9 ∧
    crcFold 0x82F63B78 0x4429E91D (hexBytes 5 0x3536373839) = 0x9C3D13C9 := by decide +kernel

/-- 45_primitives.md R114, AES-128. -/
theorem test_aes128 :
    aesEnc (hexBytes 16 0x000102030405060708090A0B0C0D0E0F) (hexBytes 16 0x00112233445566778899AABBCCDDEEFF) =
      hexBytes 16 0x69C4E0D86A7B0430D8CDB78070B4C55A := by decide +kernel

/-- 45_primitives.md R114, AES-192, by the inverse cipher. -/
theorem test_aes192 :
    aesDec (hexBytes 24 0x000102030405060708090A0B0C0D0E0F1011121314151617) (hexBytes 16 0xDDA97CA4864CDFE06EAF70A0EC0D7191) =
      hexBytes 16 0x00112233445566778899AABBCCDDEEFF := by decide +kernel

/-- 45_primitives.md R114, AES-256. -/
theorem test_aes256 :
    aesEnc (hexBytes 32 0x000102030405060708090A0B0C0D0E0F101112131415161718191A1B1C1D1E1F)
      (hexBytes 16 0x00112233445566778899AABBCCDDEEFF) = hexBytes 16 0x8EA2B7CA516745BFEAFC49904B496089 := by decide +kernel

/-- 45_primitives.md R116. -/
theorem test_sha1 :
    sha1 [] = hexBytes 20 0xDA39A3EE5E6B4B0D3255BFEF95601890AFD80709 ∧
    sha1 (hexBytes 3 0x616263) = hexBytes 20 0xA9993E364706816ABA3E25717850C26C9CD0D89D := by decide +kernel

/-- V-KDF-3 and V-KDF-5. -/
theorem test_kdf :
    kdf kdfHash (hexBytes 3 0x616263) [] 2 20 = hexBytes 20 0x0D3CED9BEC10A777AEC23CCC353A8C08A633045E ∧
    kdf kdfHash (hexBytes 3 0x616263) [] 1 32 =
      hexBytes 32 0xA9993E364706816ABA3E25717850C26C9CD0D89D98673384DACD50A6A7ED5E0E ∧
    (kdf kdfHash (hexBytes 3 0x616263) [] 1 220).drop 200 = hexBytes 20 0xC851D6FF4DFD79ED632B5620CF2955E5C6221C68 := by
  decide +kernel

/-- 41_kdf.md R80: counter 10 is the two bytes 0x31 0x30. -/
theorem test_ascii_dec : asciiDec 1 = [0x31] ∧ asciiDec 10 = [0x31, 0x30] ∧ asciiDec 4095 = [0x34, 0x30, 0x39, 0x35] := by decide

/-! ### One step of each command -/

/-- V-CRC-17: an empty region at the end of BUF is in range. -/
theorem test_crcCompute_empty_at_end : (after (exec .crcCompute (running (src 0x100000 0) []))).regs.crcValue = Config.crcSeedS := rfl

/-- V-CRC-18. -/
theorem test_crcCompute_out_of_range : (after (exec .crcCompute (running (src 0xFFFFE 4) []))).errCode = .badRange := by decide

/-- The example of 40_checksum.md R75. -/
theorem test_crcUpdate_one_byte :
    (after (exec .crcUpdate (running { src 0 1 with crcValue := 0x12345678 } [(0, 0x78)]))).regs.crcValue = 0x00123456 := by decide

/-- V-CRC-20. -/
theorem test_crcUpdate_empty :
    (after (exec .crcUpdate (running { src 0 0 with crcValue := 0x12345678 } []))).regs.crcValue = 0x12345678 := by decide

/-- V-CRC-16. -/
theorem test_crcVerify_too_short : (after (exec .crcVerify (running (src 0 3) []))).errCode = .badLength := by decide

/-- 40_checksum.md R76: SRC_LEN = 4 computes the checksum of no data. -/
theorem test_crcVerify_empty_data : (after (exec .crcVerify (running (src 0 4) []))).regs.crcValue = Config.crcSeedS := rfl

/-- V-CRC-7: the trailer is little-endian. -/
theorem test_crcAppend_empty :
    let t := after (exec .crcAppend (running (src 0 0) []))
    bufByte t.buf 0 = Config.crcSeedS.extractLsb' 0 8 ∧ bufByte t.buf 3 = Config.crcSeedS.extractLsb' 24 8 ∧ t.dstLen = 4 :=
  ⟨rfl, rfl, rfl⟩

/-- V-CRC-19. -/
theorem test_crcAppend_no_room : (after (exec .crcAppend (running (src 0xFFFF0 13) []))).errCode = .badRange := by decide

/-- V-KDF-24: in place. -/
theorem test_kdfBuf_in_place :
    bufRead (after (exec (.kdfBuf .auxRegion) (kdfState 0 20))).buf 0 20 =
      hexBytes 20 0xA9993E364706816ABA3E25717850C26C9CD0D89D := by decide +kernel

/-- V-KDF-20 and V-KDF-23 (with SRC_LEN = 3). -/
theorem test_kdfBuf_errors :
    (after (exec (.kdfBuf .auxRegion) (kdfState 64 0))).errCode = .invalidParameter ∧
    (after (exec (.kdfBuf .auxRegion) (kdfState 1 20))).errCode = .overlap := by decide

/-- V-KDF-18's shape with the secret "abc": the key words in the byte order of R33, zero beyond KEY_LEN. -/
theorem test_kdfKey_words :
    (after (exec (.kdfKey .auxRegion) (kdfState 0 0))).regs.key =
      #v[0x363E99A9, 0x6A810647, 0x71253EBA, 0x6CC25078, 0, 0, 0, 0] := by decide +kernel

/-- V-KDF-22: KEY_LEN is checked first. -/
theorem test_kdfKey_bad_keylen :
    (after (exec (.kdfKey .fixedSalt) (running { src 0 0 with keyLen := 0, kdfIter := 0 } []))).errCode = .badKeyLen := by decide

/-- V-CBC-4. -/
theorem test_cbcEnc :
    bufRead (after (exec .cbcEnc (cbcState (hexBytes 24 0x8E73B0F7DA0E6452C810F32B809079E562F8EAD2522C6B7B) 24
      (hexBytes 16 0x6BC1BEE22E409F96E93D7E117393172A)))).buf 16 16 =
      hexBytes 16 0x4F021DB243BC633D7178183A9FA071E8 := by decide +kernel

/-- V-CBC-8: KEY_LEN is checked before the length. -/
theorem test_cbcEnc_bad_keylen : (after (exec .cbcEnc (running { src 0 15 with keyLen := 20 } []))).errCode = .badKeyLen := by decide

/-- V-CBC-1, decrypted. -/
theorem test_cbcDec :
    bufRead (after (exec .cbcDec (cbcState (hexBytes 16 0x2B7E151628AED2A6ABF7158809CF4F3C) 16
      (hexBytes 16 0x7649ABAC8119B246CEE98E9B12E9197D)))).buf 16 16 =
      hexBytes 16 0x6BC1BEE22E409F96E93D7E117393172A := by decide +kernel

/-- V-CBC-7 and V-CBC-9. -/
theorem test_cbcDec_errors :
    (after (exec .cbcDec (running (src 0 17) []))).errCode = .badLength ∧
    (after (exec .cbcDec (running (srcDst 0 16 8) []))).errCode = .overlap := by decide

/-- V-PAD-3. -/
theorem test_pad_gold :
    bufRead (after (exec .pad (running (srcDst 0 12 32) (place 0 gold)))).buf 32 16 =
      hexBytes 16 0x7B22676F6C64223A3130307D04040404 := by decide +kernel

/-- V-PAD-5: a whole block more. -/
theorem test_pad_aligned : (after (exec .pad (unpadState (rep 16 0x41)))).dstLen = 32 := by decide

/-- V-UNP-6, lenient and strict. -/
theorem test_unpad_mixed_bytes :
    (after (exec (.unpad .lenient) (unpadState (rep 14 0 ++ [1, 2])))).dstLen = 14 ∧
    (after (exec (.unpad .strict) (unpadState (rep 14 0 ++ [1, 2])))).errCode = .badPadding := by decide +kernel

/-- V-UNP-4 and V-UNP-5, lenient: a pad byte of 0 strips nothing, one above the length strips everything. -/
theorem test_unpad_corners :
    (after (exec (.unpad .lenient) (unpadState (rep 16 0)))).dstLen = 16 ∧
    (after (exec (.unpad .lenient) (unpadState (rep 15 0 ++ [0xC8])))).dstLen = 0 := by decide +kernel

/-- V-CON-2: the source's scenario decodes. -/
theorem test_decode_gold :
    let t := after (exec (.decode .strict) decodeState)
    t.errCode = .none ∧ t.dstLen = 12 ∧ bufRead t.buf 0x800 12 = gold := by decide +kernel

/-- V-CON-7 (35 bytes) and V-CON-9. -/
theorem test_decode_errors :
    (after (exec (.decode .lenient) (running (src 0 35) []))).errCode = .malformedContainer ∧
    (after (exec (.decode .lenient) (running { src 0 20 with keyLen := 0 } []))).errCode = .badKeyLen := by decide

/-- V-CON-1's length; the draw itself is free, and one is taken. -/
theorem test_encode_gold :
    let t := after (exec .encode encodeState)
    t.errCode = .none ∧ t.dstLen = 36 ∧ t.ivDraws = 1 := by decide +kernel

/-- V-CON-11 and V-CON-12. -/
theorem test_encode_errors :
    (after (exec .encode (running (srcDst 0 12 4) []))).errCode = .overlap ∧
    (after (exec .encode (running (srcDst 0 12 (0x100000 - 35)) []))).errCode = .badRange := by decide

/-! ### The host port -/

/-- V-HP-2: a reserved offset ignores a write and reads 0, and no STATUS bit changes. -/
theorem test_port_reserved :
    step (after (step (given [.write 0x070 .word 0xFFFFFFFF, .read 0x070 .word]))) =
      .next { State.reset with resp := .data 0 } := rfl

/-- V-HP-4: a write of CTRL while IDLE sets IRQ_EN alone. -/
theorem test_port_ctrl :
    (after (step (after (step (given [.write 0x008 .word 0xFFFFFFFD, .read 0x008 .word]))))).resp = .data 1 := rfl

/-- V-HP-6: a 2-byte write stores its low byte first. -/
theorem test_port_half_write :
    (after (step (given [.write 0x01000002 .half 0xAABB]))).buf.cells = [(2, 0xBB), (3, 0xAA)] := by decide

/-- V-HP-8 and V-HP-10: the STATUS word after ILLEGAL_CMD, and after a warning; R117: the last code, 0xA. -/
theorem test_port_status :
    statusWord { State.reset with done := true, errCode := .illegalCmd } = 0x00000506 ∧
    statusWord { State.reset with done := true, chkWarn := true } = 0x0000000A ∧
    statusWord { State.reset with done := true, errCode := .badPadding } = 0x00000A06 := by decide

/-- The last sentence of 60_exceptions.md R132: a write of DST_LEN while BUSY is dropped and flagged. -/
theorem test_port_busy_write_flagged :
    step (busyGiven [.write 0x02C .word 5]) = .next { busyGiven [] with accessErr := true, resp := .written } := rfl

/-- 10_state.md R34: a write of a reserved offset changes no state, while BUSY too. -/
theorem test_port_busy_reserved :
    step (busyGiven [.write 0x03C .word 5]) = .next { busyGiven [] with resp := .written } ∧
    step (busyGiven [.write 0xFFC .word 5]) = .next { busyGiven [] with resp := .written } := ⟨rfl, rfl⟩

/-! ### Witnesses: a concrete state and operands that meet the hypotheses of each statement -/

/-- The hypotheses of KdfBufCompletes, for a salt and a state. -/
def kdfBufReady (salt : SaltSel) (s : State) : Prop :=
  s.snap.regs.kdfIter ≠ 0 ∧ s.snap.regs.outLen ≠ 0 ∧ InRange s (srcRegion s.snap.regs) ∧
  InRange s (dstRegion s.snap.regs s.snap.regs.outLen.toNat) ∧
  ¬PartialOverlap (dstRegion s.snap.regs s.snap.regs.outLen.toNat) (srcRegion s.snap.regs) ∧
  (salt = .auxRegion → InRange s (auxRegion s.snap.regs) ∧
    ¬PartialOverlap (dstRegion s.snap.regs s.snap.regs.outLen.toNat) (auxRegion s.snap.regs))

/-- The hypotheses of CbcEncCompletes and CbcDecCompletes. -/
def cbcReady (s : State) : Prop :=
  KeyLenOk s.snap.regs ∧ s.snap.regs.srcLen.toNat % 16 = 0 ∧ InRange s (srcRegion s.snap.regs) ∧
  InRange s (dstRegion s.snap.regs s.snap.regs.srcLen.toNat) ∧
  ¬PartialOverlap (dstRegion s.snap.regs s.snap.regs.srcLen.toNat) (srcRegion s.snap.regs)

/-- DECODE's decrypted buffer, as the statements write it. -/
def decrypted (s : State) : Bytes :=
  cbcDec (keyBytes s.snap.regs) ((memRead s (srcRegion s.snap.regs)).take 16)
    (((memRead s (srcRegion s.snap.regs)).drop 16).take (s.snap.regs.srcLen.toNat - 20))

/-- V-CON-8: DECODE of 36 zero bytes with K1. -/
def zeroContainerState : State := running { srcDst 0 36 0x800 with key := key1 } (place 0 (rep 36 0))

/-- A write of CMD that the engine, IDLE, accepts. -/
def issue (v : Word) (rest : List HostInput) : State := given (.write 0x00C .word v :: rest)

theorem test_witness_IllegalWordIsAcceptedAndFails :
    (issue 0x401 []).eng = .idle ∧ (issue 0x401 []).inReset = false ∧ (issue 0x401 []).inputs = [.write 0x00C .word 0x401] ∧
    wordWellFormed 0x401 = false := by decide

theorem test_witness_StepRunsTheDecodedCommand :
    (busyGiven []).eng = .busy ∧ decode (busyGiven []).cmdl = .ok .crcCompute ∧ (busyGiven []).inputs = [] ∧
    (busyGiven [.engineTurn]).eng = .busy ∧ decode (busyGiven [.engineTurn]).cmdl = .ok .crcCompute ∧
    (busyGiven [.engineTurn]).inputs = .engineTurn :: [] := by decide

theorem test_witness_CmdWriteIsAccepted :
    (issue 0x31 [.engineTurn]).eng = .idle ∧ (issue 0x31 [.engineTurn]).inReset = false ∧
    (issue 0x31 [.engineTurn]).inputs = .write 0x00C .word 0x31 :: [.engineTurn] := by decide

theorem test_witness_CrcComputeCompletes :
    InRange (running (src 0x100000 0) []) (srcRegion (src 0x100000 0)) ∧ InRange (running (src 0 0x100000) []) (srcRegion (src 0 0x100000)) := by
  decide

theorem test_witness_CrcUpdateCompletes : InRange (running (src 0xFFFFF 1) []) (srcRegion (running (src 0xFFFFF 1) []).snap.regs) := by
  decide

theorem test_witness_CrcVerifyCompletes :
    4 ≤ (running (src 0xFFFFC 4) []).snap.regs.srcLen.toNat ∧
    InRange (running (src 0xFFFFC 4) []) (srcRegion (running (src 0xFFFFC 4) []).snap.regs) := by decide

theorem test_witness_CrcAppendCompletes :
    let s := running (src 0 0xFFFFC) []
    s.snap.regs.srcAddr.toNat + s.snap.regs.srcLen.toNat + 4 ≤ bufSize s := by decide

theorem test_witness_KdfBufCompletes :
    kdfBufReady .auxRegion (kdfState 0 20) ∧ kdfBufReady .fixedSalt (kdfState (0x100000 - 41) 41) := by
  unfold kdfBufReady; decide

theorem test_witness_KdfKeyCompletes :
    let s := kdfState 0 0
    KeyLenOk s.snap.regs ∧ s.snap.regs.kdfIter ≠ 0 ∧ InRange s (srcRegion s.snap.regs) ∧
    (SaltSel.auxRegion = .auxRegion → InRange s (auxRegion s.snap.regs)) ∧
    (SaltSel.fixedSalt = .auxRegion → InRange s (auxRegion s.snap.regs)) := by decide

theorem test_witness_CbcEncCompletes : cbcReady (cbcState (rep 16 0) 16 (rep 16 1)) ∧ cbcReady (running (srcDst 0 0 0) []) := by
  unfold cbcReady; decide

theorem test_witness_CbcDecCompletes :
    cbcReady (cbcState (rep 24 0) 24 (rep 16 1)) ∧ cbcReady (running (srcDst 0 32 (0x100000 - 32)) []) := by
  unfold cbcReady; decide

theorem test_witness_PadCompletes :
    let s := running (srcDst 0 16 (0x100000 - 32)) []
    let dst := dstRegion s.snap.regs (s.snap.regs.srcLen.toNat + (16 - s.snap.regs.srcLen.toNat % 16))
    InRange s (srcRegion s.snap.regs) ∧ InRange s dst ∧ ¬PartialOverlap dst (srcRegion s.snap.regs) := by decide

theorem test_witness_UnpadCompletes :
    let s := unpadState (rep 12 0 ++ rep 4 4)
    let dst := dstRegion s.snap.regs s.snap.regs.srcLen.toNat
    0 < s.snap.regs.srcLen.toNat ∧ InRange s (srcRegion s.snap.regs) ∧ InRange s dst ∧
    ¬PartialOverlap dst (srcRegion s.snap.regs) ∧
    (PadMode.strict = .strict → PadValid (memRead s (srcRegion s.snap.regs))) := by decide +kernel

theorem test_witness_DecodeCompletes :
    let s := decodeState
    let dst := dstRegion s.snap.regs (s.snap.regs.srcLen.toNat - 20)
    KeyLenOk s.snap.regs ∧ 20 < s.snap.regs.srcLen.toNat ∧ (s.snap.regs.srcLen.toNat - 20) % 16 = 0 ∧
    InRange s (srcRegion s.snap.regs) ∧ InRange s dst ∧ ¬PartialOverlap dst (srcRegion s.snap.regs) ∧
    (PadMode.strict = .strict → PadValid (decrypted s)) ∧ Config.structuredValid (unpadL (decrypted s)) = true := by decide +kernel

theorem test_witness_EncodeCompletes :
    let s := encodeState
    let dst := dstRegion s.snap.regs (16 + s.snap.regs.srcLen.toNat + (16 - s.snap.regs.srcLen.toNat % 16) + 4)
    KeyLenOk s.snap.regs ∧ InRange s (srcRegion s.snap.regs) ∧ InRange s dst ∧ ¬PartialOverlap dst (srcRegion s.snap.regs) ∧
    Config.structuredValid (memRead s (srcRegion s.snap.regs)) = true := by decide +kernel

/-- Every error of steps 2 to 6 of R118 is due somewhere, and none is due somewhere. -/
theorem test_witness_OperandErrorsAreReportedInOrder :
    operandError .cbcEnc (running { src 0 15 with keyLen := 20 } []) = .badKeyLen ∧
    operandError (.kdfBuf .fixedSalt) (kdfState 64 0) = .invalidParameter ∧
    operandError .crcVerify (running (src 0 3) []) = .badLength ∧
    operandError (.decode .lenient) (running (src 0 20) []) = .malformedContainer ∧
    operandError .crcCompute (running (src 0x100001 0) []) = .badRange ∧
    operandError .encode (running (srcDst 0 12 4) []) = .overlap ∧
    operandError .encode encodeState = .none := by decide

theorem test_witness_DecodeLateFailure :
    operandError (.decode .strict) zeroContainerState = .none ∧
    (PadMode.strict = .strict ∧ ¬PadValid (decrypted zeroContainerState)) := by decide +kernel

theorem test_witness_DataErrorsChangeNothing :
    operandError (.unpad .strict) (unpadState (rep 16 0)) = .none ∧
    ¬PadValid (memRead (unpadState (rep 16 0)) (srcRegion (unpadState (rep 16 0)).snap.regs)) ∧
    operandError .encode encodeState = .none := by decide +kernel

theorem test_witness_FailedCommandLeavesItsCode :
    exec .crcVerify (running (src 0 3) []) = .next (after (exec .crcVerify (running (src 0 3) []))) ∧
    (after (exec .crcVerify (running (src 0 3) []))).errCode ≠ .none := ⟨rfl, by decide⟩

theorem test_witness_CommandWritesOnlyItsDestination :
    let s := unpadState (rep 16 0)
    exec .pad s = .next (after (exec .pad s)) ∧
    (∀ r, destRegion .pad s.snap.regs = some r → ¬r.has 15) ∧ (∀ r, destRegion .pad s.snap.regs = some r → ¬r.has 48) :=
  ⟨rfl, fun r h => by cases h; decide, fun r h => by cases h; decide⟩

theorem test_witness_CommandsWriteOnlyTheirRegisters :
    exec .encode encodeState = .next (after (exec .encode encodeState)) ∧ writesCrcValue .pad = false ∧ writesKey .encode = false ∧
    writesIv .cbcEnc = false ∧ writesChkWarn .encode = false := ⟨rfl, rfl, rfl, rfl, rfl⟩

theorem test_witness_UnreadRegistersDoNotAffectTheCommand :
    AgreeOnReads .pad (unpadState []).snap.regs { (unpadState []).snap.regs with keyLen := 0, auxAddr := 0xFFFFFFFF, crcValue := 7 } ∧
    exec .pad (unpadState []) = .next (after (exec .pad (unpadState []))) := ⟨⟨rfl, rfl, nofun, rfl⟩, rfl⟩

theorem test_witness_SingleByteChangeIsDetected :
    (0x82F63B78 : Word).getLsbD 31 = true ∧
    crcFold 0x82F63B78 0x12345678 ([0x01] ++ 0x02 :: [0x03]) = crcFold 0x82F63B78 0x12345678 ([0x01] ++ 0x02 :: [0x03]) :=
  ⟨by decide, rfl⟩

theorem test_witness_AppendedTrailerVerifies :
    let s := running (src 0 0) []
    let t := after (exec .crcAppend s)
    let u : State := { t with snap := ⟨{ s.snap.regs with srcLen := 4 }, t.buf⟩ }
    s.snap.buf = s.buf ∧ exec .crcAppend s = .next t ∧ t.errCode = .none ∧ u.bufSel = s.bufSel ∧ u.snap.buf = t.buf ∧
    u.snap.regs.srcAddr = s.snap.regs.srcAddr ∧ u.snap.regs.srcLen.toNat = s.snap.regs.srcLen.toNat + 4 :=
  ⟨rfl, rfl, rfl, rfl, rfl, rfl, rfl⟩

/-- SHA-1 is a hash of 20-byte digests; the lengths of KdfShortOutputs at their bounds, the blocks 1 and 3 whole and the block 3 cut to
one byte and to 19. -/
theorem test_witness_KdfLengthAndPrefix_KdfShortOutputs :
    (∀ m, (kdfHash m).length = 20) ∧ 1 ≤ 1 ∧ (1 ≤ 20 ∧ 20 ≤ 20) ∧ (20 < 21 ∧ 21 ≤ 40) ∧ (20 < 40 ∧ 40 ≤ 40) ∧
    (40 < 41 ∧ 41 ≤ 60) ∧ (40 < 60 ∧ 60 ≤ 60) ∧ (1 ≤ 1 ∧ 20 * 1 + 20 ≤ 40) ∧ (1 ≤ 3 ∧ 20 * 3 + 20 ≤ 80) ∧
    (20 * 3 < 61 ∧ 61 < 20 * 3 + 20) ∧ (20 * 3 < 79 ∧ 79 < 20 * 3 + 20) :=
  ⟨fun _ => rfl, by decide⟩

theorem test_witness_AesInverts_CbcInverts :
    ((rep 24 0x0F).length = 16 ∨ (rep 24 0x0F).length = 24 ∨ (rep 24 0x0F).length = 32) ∧ (rep 16 0xA5).length = 16 ∧
    (rep 48 0x11).length % 16 = 0 := by decide

theorem test_witness_CbcChainsThroughTheLastBlock :
    ((rep 32 0x0F).length = 16 ∨ (rep 32 0x0F).length = 24 ∨ (rep 32 0x0F).length = 32) ∧ (rep 16 0xA5).length = 16 ∧
    (rep 16 0x11).length % 16 = 0 ∧ 0 < (rep 16 0x11).length ∧ (rep 32 0x22).length % 16 = 0 := by decide

theorem test_witness_CbcDecryptsBlockByBlock :
    ((rep 16 0x0F).length = 16 ∨ (rep 16 0x0F).length = 24 ∨ (rep 16 0x0F).length = 32) ∧ (rep 16 0xA5).length = 16 ∧
    (rep 32 0x11).length % 16 = 0 ∧ 16 * 0 < (rep 32 0x11).length ∧ 16 * 1 < (rep 32 0x11).length := by decide

theorem test_witness_ContainerRoundTrip :
    let s := encodeState
    let t := after (exec .encode s)
    let u : State := { t with snap := ⟨{ s.snap.regs with srcAddr := 0x100, srcLen := t.dstLen, dstAddr := 0x200 }, t.buf⟩ }
    exec .encode s = .next t ∧ t.errCode = .none ∧ u.bufSel = s.bufSel ∧ u.snap.buf = t.buf ∧
    u.snap.regs.key = s.snap.regs.key ∧ u.snap.regs.keyLen = s.snap.regs.keyLen ∧
    u.snap.regs.srcAddr = s.snap.regs.dstAddr ∧ u.snap.regs.srcLen = t.dstLen ∧
    InRange u (dstRegion u.snap.regs (t.dstLen.toNat - 20)) ∧
    ¬PartialOverlap (dstRegion u.snap.regs (t.dstLen.toNat - 20)) (srcRegion u.snap.regs) :=
  ⟨rfl, by decide +kernel, rfl, rfl, rfl, rfl, rfl, rfl, by decide +kernel, by decide +kernel⟩

theorem test_witness_RegisterFileByteOrder :
    (#v[0x9111E31D, 0, 0, 0, 0, 0, 0, 0] : Vector Word 8)[0] = 0x9111E31D ∧
    (goldContainer.take 32).length = 32 ∧
    (∀ j : Fin 8, (keyFileOf (goldContainer.take 32))[j] = fromLE32 (((goldContainer.take 32).drop (4 * j.val)).take 4)) := by
  decide +kernel

/-- Each clause: a step that goes on; a write while IDLE and while BUSY; each read-only register; both ends of each reserved range. -/
theorem test_witness_IdAndCapsAreConstant :
    step (given []) = .next (given []) ∧
    (given [.write 0x000 .word 7]).inReset = false ∧ (given [.write 0x000 .word 7]).inputs = .write 0x000 .word 7 :: [] ∧
    (busyGiven [.write 0x004 .word 7]).inReset = false ∧ (busyGiven [.write 0x004 .word 7]).inputs = .write 0x004 .word 7 :: [] ∧
    ([(0x000 : Offset), 0x004, 0x02C, 0x03C, 0x070, 0xFFC].all fun off => accessWellFormed off .word) = true ∧
    ([(0x1000 : Offset), 0x00FFFFFF, 0x01100000, 0x01FFFFFF].all fun off => accessWellFormed off .byte) = true ∧
    (reservedEnds.all fun off => decide (ReservedOffset (given []) off)) = true :=
  ⟨rfl, rfl, rfl, rfl, rfl, by decide, by decide, by decide⟩

theorem test_witness_BadAccessIsABusError :
    (given [.read 0x01000001 .half]).inReset = false ∧ accessWellFormed 0x01000001 .half = false ∧
    (given [.read 0x01000001 .half]).inputs = .read 0x01000001 .half :: [] ∧
    accessWellFormed 0x014 .byte = false ∧ (given [.write 0x014 .byte 0]).inputs = .write 0x014 .byte 0 :: [] := by decide

/-- A write of each width, at the first and the last place it fits, and the reads inside a word: its last byte, its upper half. -/
theorem test_witness_BufWindowIsLittleEndian :
    let s := given [.write 0x010FFFFE .half 0xAABB]
    s.eng = .idle ∧ s.inReset = false ∧ s.inputs = .write 0x010FFFFE .half 0xAABB :: [] ∧
    ((0x010FFFFE : Offset).toNat = 0x01000000 + 0xFFFFE ∧ 0xFFFFE % Width.half.bytes = 0 ∧ 0xFFFFE + Width.half.bytes ≤ bufSize s) ∧
    ((0x010FFFFF : Offset).toNat = 0x01000000 + 0xFFFFF ∧ 0xFFFFF % Width.byte.bytes = 0 ∧ 0xFFFFF + Width.byte.bytes ≤ bufSize s) ∧
    ((0x01000000 : Offset).toNat = 0x01000000 + 0 ∧ 0 % Width.word.bytes = 0 ∧ 0 + Width.word.bytes ≤ bufSize s) ∧
    (3 + Width.byte.bytes ≤ 0 + Width.word.bytes ∧ 3 % Width.byte.bytes = 0) ∧
    (2 + Width.half.bytes ≤ 0 + Width.word.bytes ∧ 2 % Width.half.bytes = 0) := by decide

theorem test_witness_CmdWriteWhileBusyIsDropped :
    (busyGiven [.write 0x00C .word 2]).eng = .busy ∧ (busyGiven [.write 0x00C .word 2]).inReset = false ∧
    (busyGiven [.write 0x00C .word 2]).inputs = .write 0x00C .word 2 :: [] := by decide

/-- Each clause: the first and the last register that is dropped, the first and the last BUF byte, CTRL while BUSY and while IDLE. -/
theorem test_witness_WritesWhileBusyAreDropped :
    (busyGiven [.write 0x014 .word 9]).eng = .busy ∧ (busyGiven [.write 0x014 .word 9]).inReset = false ∧
    (busyGiven [.write 0x014 .word 9]).inputs = .write 0x014 .word 9 :: [] ∧
    accessWellFormed 0x014 .word = true ∧ (0x014 : Offset).toNat = regOffset .srcAddr ∧
    accessWellFormed 0x06C .word = true ∧ (0x06C : Offset).toNat = regOffset (.iv 3) ∧
    accessWellFormed 0x01000000 .word = true ∧ 0x01000000 ≤ (0x01000000 : Offset).toNat ∧
    accessWellFormed 0x010FFFFF .byte = true ∧ (0x010FFFFF : Offset).toNat < 0x01000000 + bufSize (busyGiven []) ∧
    (given [.write 0x008 .word 1]).eng = .idle ∧ (given [.write 0x008 .word 1]).inReset = false ∧
    (given [.write 0x008 .word 1]).inputs = .write 0x008 .word 1 :: [] ∧
    accessWellFormed 0x008 .word = true ∧ (0x008 : Offset).toNat = 0x008 ∧ (1 : Word).getLsbD 1 = false := by decide

/-- Each clause: a hidden register, another register, the first and the last BUF byte. -/
theorem test_witness_ReadsWhileBusy :
    (busyGiven [.read 0x02C .word]).eng = .busy ∧ (busyGiven [.read 0x02C .word]).inReset = false ∧
    (busyGiven [.read 0x02C .word]).inputs = .read 0x02C .word :: [] ∧
    accessWellFormed 0x02C .word = true ∧ (0x02C : Offset).toNat = regOffset .dstLen ∧
    accessWellFormed 0x06C .word = true ∧ (0x06C : Offset).toNat = regOffset (.iv 3) ∧
    accessWellFormed 0x010 .word = true ∧ (0x010 : Offset).toNat = regOffset .status ∧
    accessWellFormed 0x01000000 .half = true ∧ 0x01000000 ≤ (0x01000000 : Offset).toNat ∧
    accessWellFormed 0x010FFFFF .byte = true ∧ (0x010FFFFF : Offset).toNat < 0x01000000 + bufSize (busyGiven []) := by decide

/-- Each clause: two reads of one place; both ends of each reserved range; the first and the last register, the four spelled out; the
first and the last BUF byte. -/
theorem test_witness_ReadsHaveNoSideEffects :
    (given [.read 0x03C .word, .read 0x03C .word]).inReset = false ∧ (given [.read 0x03C .word, .read 0x03C .word]).eng = .idle ∧
    (given [.read 0x03C .word, .read 0x03C .word]).inputs = .read 0x03C .word :: [.read 0x03C .word] ∧
    ([(0x000 : Offset), 0x008, 0x00C, 0x010, 0x02C, 0x03C, 0x06C, 0x070, 0xFFC].all fun off => accessWellFormed off .word) = true ∧
    ([(0x1000 : Offset), 0x00FFFFFF, 0x01000000, 0x010FFFFF, 0x01100000, 0x01FFFFFF].all fun off => accessWellFormed off .byte) = true ∧
    (reservedEnds.all fun off => decide (ReservedOffset (given []) off)) = true ∧
    (0x000 : Offset).toNat = regOffset .id ∧ (0x06C : Offset).toNat = regOffset (.iv 3) ∧
    ((0x008 : Offset).toNat = 0x008 ∧ (0x00C : Offset).toNat = 0x00C ∧ (0x010 : Offset).toNat = 0x010 ∧ (0x02C : Offset).toNat = 0x02C) ∧
    ((0x01000000 : Offset).toNat = 0x01000000 + 0 ∧ 0 < bufSize (given [])) ∧
    ((0x010FFFFF : Offset).toNat = 0x01000000 + 0xFFFFF ∧ 0xFFFFF < bufSize (given [])) := by decide

theorem test_witness_StatusWriteClearsOnes :
    (busyGiven [.write 0x010 .word 0x3A]).inReset = false ∧
    (busyGiven [.write 0x010 .word 0x3A]).inputs = .write 0x010 .word 0x3A :: [] := by decide

theorem test_witness_OperandRegistersReadBack :
    let s := given [.write 0x028 .word 0xFFFFFFFF, .read 0x028 .word]
    ((0x028 : Offset), RegName.outLen) ∈ [((0x014 : Offset), RegName.srcAddr), (0x018, .srcLen), (0x01C, .dstAddr), (0x020, .auxAddr),
      (0x024, .auxLen), (0x028, .outLen)] ∧
    s.eng = .idle ∧ s.inReset = false ∧ s.inputs = [.write 0x028 .word 0xFFFFFFFF, .read 0x028 .word] ∧
    exec .pad (unpadState []) = .next (after (exec .pad (unpadState []))) :=
  ⟨by decide, rfl, rfl, rfl, rfl⟩

theorem test_witness_HostWritesOperandRegisters :
    let s := given [.write 0x05C .word 0x80000001, .read 0x05C .word]
    RegName.key 7 ∉ [RegName.id, .caps, .ctrl, .cmd, .status, .dstLen] ∧ (0x05C : Offset).toNat = regOffset (.key 7) ∧
    RegName.iv 3 ∉ [RegName.id, .caps, .ctrl, .cmd, .status, .dstLen] ∧ (0x06C : Offset).toNat = regOffset (.iv 3) ∧
    s.eng = .idle ∧ s.inReset = false ∧ s.inputs = [.write 0x05C .word 0x80000001, .read 0x05C .word] := by decide

theorem test_witness_EngineStartsNothingByItself :
    (given [.engineTurn]).eng = .idle ∧ (given [.engineTurn]).inputs = .engineTurn :: [] ∧ State.reset.inputs = [] := by decide

/-- A command that writes BUF is BUSY; offset 3 lies before its destination, offset 8 after it. -/
theorem test_witness_SoftResetState :
    let s : State := { running (src 0 4) [] with cmd := 4, cmdl := 4, inputs := [.write 0x008 .word 3] }
    s.inReset = false ∧ (3 : Word).getLsbD 1 = true ∧ s.inputs = .write 0x008 .word 3 :: [] ∧
    (s.eng = .busy → ∀ i r, decode s.cmdl = .ok i → destRegion i s.snap.regs = some r → ¬r.has 3 ∧ ¬r.has 8) := by
  refine ⟨rfl, by decide, rfl, fun _ i r hd hr => ?_⟩
  have hi : Instr.crcAppend = i := Except.ok.inj (Eq.trans (by decide) hd)
  subst hi
  cases hr
  decide

theorem test_witness_HardwareResetState :
    (busyGiven [.assertReset, .releaseReset, .write 0x00C .word 1]).inputs =
      .assertReset :: ([.releaseReset, .write 0x00C .word 1] ++ []) ∧
    (busyGiven [.assertReset, .read 0x010 .word]).inputs = .assertReset :: [.read 0x010 .word] ∧
    nextIsAccess (after (step (busyGiven [.assertReset, .read 0x010 .word]))) = true := by decide

/-- The invariant holds of a BUSY state that no step from reset reaches without a host, and of reset. -/
theorem test_witness_StepKeepsInv :
    Inv (after (step (issue 4 []))) ∧
    step (after (step (issue 4 []))) = .next (after (step (after (step (issue 4 []))))) := by
  refine ⟨⟨⟨rfl, rfl⟩, ⟨rfl, rfl⟩, fun _ => ⟨rfl, rfl, rfl, rfl, rfl, rfl⟩, nofun, fun h => absurd rfl h⟩, rfl⟩

theorem test_witness_EngineStateChangesOnlyAsR18Says :
    step (issue 4 []) = .next (after (step (issue 4 []))) ∧ (issue 4 []).eng = .idle ∧ (after (step (issue 4 []))).eng = .busy ∧
    step (busyGiven []) = .next (after (step (busyGiven []))) ∧ (busyGiven []).eng = .busy ∧
    (after (step (busyGiven []))).eng = .idle := ⟨rfl, rfl, rfl, rfl, rfl, rfl⟩

/-- A host that writes CMD, polls STATUS and lets the engine move. -/
theorem test_witness_CleanHostSeesNoProtocolError :
    let s := issue 1 [.read 0x010 .word, .engineTurn]
    let t := after (Sys2Proof.core.run 3 s)
    s.overrun = false ∧ s.accessErr = false ∧
    (∀ j < 3, ∀ u, Sys2Proof.core.run j s = .next u → nextIsWrite u = true → u.eng = .idle) ∧
    Sys2Proof.core.run 3 s = .next t := by
  refine ⟨rfl, rfl, fun j hj u hu hw => ?_, rfl⟩
  match j, hj with
  | 0, _ => cases hu; rfl
  | 1, _ => cases hu; exact absurd hw (by decide)
  | 2, _ => cases hu; exact absurd hw (by decide)

theorem test_witness_AcceptedCommandEnds :
    (busyGiven [.read 0x010 .word]).eng = .busy ∧ (busyGiven [.read 0x010 .word]).inReset = false := by decide

end Sys2Proof.Tests
end

section
/-! The register files and the operand registers (spec/10_state.md R26, R33). -/

namespace Sys2Proof.Machine

/-! ### The byte order of a register file (R33) -/

theorem byteAt_le32 (v : Word) {i : Nat} (h : i < 4) : byteAt (le32 v) i = v.extractLsb' (8 * i) 8 := by
  match i, h with
  | 0, _ | 1, _ | 2, _ | 3, _ => rfl

theorem byteAt_append (a b : Bytes) (i : Nat) :
    byteAt (a ++ b) i = if i < a.length then byteAt a i else byteAt b (i - a.length) := by
  unfold byteAt
  split
  · next h => exact List.getD_append _ _ _ _ h
  · next h => exact List.getD_append_right _ _ _ _ (Nat.le_of_not_lt h)

/-- The first word of a register file gives its bytes 0 to 3, the other words the bytes from 4 on. -/
theorem byteAt_fileBytes_cons (w : Word) (ws : List Word) (i : Nat) :
    byteAt (fileBytes (w :: ws)) i = if i < 4 then w.extractLsb' (8 * i) 8 else byteAt (fileBytes ws) (i - 4) := by
  rw [fileBytes, List.flatMap_cons, byteAt_append, le32_length]
  split
  · next h => rw [byteAt_le32 w h]
  · rfl

theorem byteAt_fileBytes {ws : List Word} {i : Nat} (h : i / 4 < ws.length) :
    byteAt (fileBytes ws) i = ws[i / 4].extractLsb' (8 * (i % 4)) 8 := by
  induction ws generalizing i with
  | nil => exact absurd h (Nat.not_lt_zero _)
  | cons w ws ih =>
    rw [byteAt_fileBytes_cons]
    split
    · next hi => simp only [Nat.div_eq_of_lt hi, Nat.mod_eq_of_lt hi, List.getElem_cons_zero]
    · next hi =>
      have hdiv : i / 4 = (i - 4) / 4 + 1 := by omega
      have hmod : (i - 4) % 4 = i % 4 := by omega
      simp only [hdiv, List.getElem_cons_succ, ← hmod]
      exact ih (by rw [List.length_cons] at h; omega)

theorem byteAt_keyFileBytes (k : Vector Word 8) (i : Fin 32) :
    byteAt (keyFileBytes k) i.val = (k[i.val / 4]).extractLsb' (8 * (i.val % 4)) 8 := by
  rw [keyFileBytes, byteAt_fileBytes (by simp only [Vector.length_toList]; omega), Vector.getElem_toList]

theorem byteAt_ivBytes (o : OperandRegs) (i : Fin 16) :
    byteAt (ivBytes o) i.val = (o.iv[i.val / 4]).extractLsb' (8 * (i.val % 4)) 8 := by
  rw [ivBytes, byteAt_fileBytes (by simp only [Vector.length_toList]; omega), Vector.getElem_toList]

/-- A key file is `keyFileOf b` as soon as each of its words is the little-endian word of `b` at its place. -/
theorem eq_keyFileOf {b : Bytes} {k : Vector Word 8} (h : ∀ j : Fin 8, k[j] = fileWord b j.val) : k = keyFileOf b := by
  ext1 j hj
  have hof : ∀ j : Fin 8, (keyFileOf b)[j] = fileWord b j.val := fun
    | 0 | 1 | 2 | 3 | 4 | 5 | 6 | 7 => rfl
  exact (h ⟨j, hj⟩).trans (hof ⟨j, hj⟩).symm

theorem fileBytes_take_four (w : Word) (ws : List Word) : (fileBytes (w :: ws)).take 4 = le32 w := by
  rw [fileBytes, List.flatMap_cons, List.take_append_of_le_length (Nat.le_refl 4)]
  rfl

theorem keyFileBytes_take_four (k : Vector Word 8) : (keyFileBytes k).take 4 = le32 k[0] := by
  have hk : k.toList = k[0] :: k.toList.tail := by
    rw [← List.cons_head_tail (l := k.toList) (by simp), List.head_eq_getElem]
    simp
  rw [keyFileBytes, hk, fileBytes_take_four]

/-- Settles O39: the byte order of both files, by induction on the words of a register file. -/
theorem registerFileByteOrder : Obligations.RegisterFileByteOrder := by
  unfold Obligations.RegisterFileByteOrder
  refine ⟨byteAt_keyFileBytes, byteAt_ivBytes, fun b k hb hk => ?_, fun k hk => ?_⟩
  · rw [eq_keyFileOf (b := b) hk, keyFileBytes_keyFileOf hb]
  · rw [keyFileBytes_take_four, hk]
    decide

/-! ### Operand registers on the host port while IDLE (R26, R28 to R33) -/

/-- The registers a host write stores a word in: operand registers, KEY and IV words. -/
def IsOperandReg (r : RegName) : Prop := r ∉ [.id, .caps, .ctrl, .cmd, .status, .dstLen]

/-- `s` with a word stored in an operand register, KEY or IV word. -/
def State.setOperand (s : State) (r : RegName) (v : Word) : State := { s with regs := writeOperandReg s.regs r v }

/-- `s` after the port has answered an access and the host's inputs have moved on. -/
def State.answered (s : State) (rest : List HostInput) (a : BusResponse) : State := { s with inputs := rest, resp := a }

/-- The port's answer and the host's inputs are in no register. -/
@[simp] theorem regWord_answered (s : State) (rest : List HostInput) (a : BusResponse) (r : RegName) :
    regWord (s.answered rest a) r = regWord s r := by cases r <;> rfl

theorem regWord_setOperand_same (s : State) {r : RegName} (hr : IsOperandReg r) (v : Word) :
    regWord (s.setOperand r v) r = v := by
  cases r with
  | id | caps | ctrl | cmd | status | dstLen => exact absurd (by decide) hr
  | key i => exact Vector.getElem_set_self i.isLt
  | iv i => exact Vector.getElem_set_self i.isLt
  | _ => rfl

theorem regWord_setOperand_other (s : State) {r r' : RegName} (h : r' ≠ r) (v : Word) :
    regWord (s.setOperand r v) r' = regWord s r' := by
  cases r' with
  | key j =>
    cases r with
    | key i => exact Vector.getElem_set_ne i.isLt j.isLt fun hij => h (by rw [Fin.ext hij])
    | _ => rfl
  | iv j =>
    cases r with
    | iv i => exact Vector.getElem_set_ne i.isLt j.isLt fun hij => h (by rw [Fin.ext hij])
    | _ => rfl
  | id | caps | ctrl | cmd | status | dstLen => rfl
  | _ => cases r <;> simp_all [State.setOperand, regWord, writeOperandReg]

theorem writeReg_operand_of_idle {s : State} {r : RegName} (hr : IsOperandReg r) (he : s.eng = .idle) (v : Word) :
    writeReg s r v = s.setOperand r v := by
  cases r with
  | id | caps | ctrl | cmd | status | dstLen => exact absurd (by decide) hr
  | _ => simp [writeReg, writeWhileIdle, he, State.setOperand]

theorem writeTarget_operand_of_idle {s : State} {off : Offset} {r : RegName} (hr : IsOperandReg r)
    (ho : off.toNat = regOffset r) (he : s.eng = .idle) (w : Width) (v : Word) :
    writeTarget s off w v = s.setOperand r v := by
  simp only [writeTarget, targetAt_register ho, writeReg_operand_of_idle hr he]

theorem busRead_register_of_idle {s : State} {off : Offset} {r : RegName} (ho : off.toNat = regOffset r)
    (he : s.eng = .idle) : busRead s off .word = { s with resp := .data (regWord s r) } := by
  simp [busRead, accessAllowed_register ho, targetAt_register ho, he]

/-- A step that writes an operand register while IDLE stores the word. -/
theorem step_write_operand {s : State} {off : Offset} {r : RegName} {v : Word} {rest : List HostInput} (hr : IsOperandReg r)
    (ho : off.toNat = regOffset r) (he : s.eng = .idle) (hn : s.inReset = false) (hi : s.inputs = .write off .word v :: rest) :
    step s = .next ((s.setOperand r v).answered rest .written) := by
  have hw : accessWellFormed off .word = true := by
    rw [← accessAllowed_eq_wellFormed, accessAllowed_register ho]
  rw [step_write hn hi hw, writeTarget_operand_of_idle hr ho (s := { s with inputs := rest }) he]
  rfl

/-- A step that reads a register while IDLE answers what the register holds and changes nothing else. -/
theorem step_read_register {s : State} {off : Offset} {r : RegName} {rest : List HostInput} (ho : off.toNat = regOffset r)
    (he : s.eng = .idle) (hn : s.inReset = false) (hi : s.inputs = .read off .word :: rest) :
    step s = .next (s.answered rest (.data (regWord s r))) := by
  have hreg : regWord { s with inputs := rest } r = regWord s r := regWord_answered s rest s.resp r
  rw [step_read hn hi, busRead_register_of_idle ho (s := { s with inputs := rest }) he, hreg]
  rfl

/-- A write of an operand register while IDLE and a read after it: the read answers the word written, no other register and no
BUF byte changes, the engine stays IDLE. -/
theorem write_then_read_operand {s : State} {off : Offset} {r : RegName} {v : Word} (hr : IsOperandReg r)
    (ho : off.toNat = regOffset r) (he : s.eng = .idle) (hn : s.inReset = false)
    (hi : s.inputs = [.write off .word v, .read off .word]) :
    ∃ t u, step s = .next t ∧ t.resp = .written ∧ step t = .next u ∧ u.resp = .data v ∧
      (∀ r', r' ≠ r → regWord u r' = regWord s r') ∧ BufKept s u ∧ u.eng = .idle ∧ FreeKept s u := by
  refine ⟨_, _, step_write_operand hr ho he hn hi, rfl, step_read_register ho he hn rfl, ?_, fun r' h => ?_,
    fun _ => rfl, he, rfl, rfl⟩
  · rw [regWord_answered, regWord_setOperand_same s hr]
    rfl
  · rw [regWord_answered, regWord_answered, regWord_setOperand_other s h]

/-! ### The registers a command may write (30_encoding.md R60) -/

/-- `o'` is `o` but for CRC_VALUE, the key file and the IV file. -/
def OperandsKept (o o' : OperandRegs) : Prop := ∃ c k v, o' = { o with crcValue := c, key := k, iv := v }

theorem cbcCommand_operandsKept (f : Bytes → Bytes → Bytes → Bytes) (s : State) :
    OperandsKept s.regs (cbcCommand f s).regs := by
  rcases cbcCommand_cases f s with ⟨e, ht, -⟩ | ⟨-, -, -, -, ht⟩ <;> rw [ht] <;> exact ⟨_, _, _, rfl⟩

/-- No command writes an operand register other than CRC_VALUE, KEY and IV. -/
theorem exec_operandsKept {i : Instr} {s t : State} (h : exec i s = .next t) : OperandsKept s.regs t.regs := by
  cases i with
  | crcCompute => rcases execCrcCompute_cases h with rfl | ⟨-, rfl⟩ <;> exact ⟨_, _, _, rfl⟩
  | crcUpdate => rcases execCrcUpdate_cases h with rfl | ⟨-, rfl⟩ <;> exact ⟨_, _, _, rfl⟩
  | crcVerify => rcases execCrcVerify_cases h with ⟨e, rfl, -⟩ | ⟨-, -, rfl⟩ <;> exact ⟨_, _, _, rfl⟩
  | crcAppend => rcases execCrcAppend_cases h with rfl | ⟨-, rfl⟩ <;> exact ⟨_, _, _, rfl⟩
  | kdfBuf salt => rcases execKdfBuf_cases h with ⟨e, rfl, -⟩ | ⟨-, -, -, -, -, rfl⟩ <;> exact ⟨_, _, _, rfl⟩
  | kdfKey salt => rcases execKdfKey_cases h with ⟨e, rfl, -⟩ | ⟨-, -, -, -, rfl⟩ <;> exact ⟨_, _, _, rfl⟩
  | cbcEnc => exact Host.Outcome.next.inj h ▸ cbcCommand_operandsKept Machine.cbcEnc s
  | cbcDec => exact Host.Outcome.next.inj h ▸ cbcCommand_operandsKept Machine.cbcDec s
  | pad => rcases execPad_cases h with ⟨e, rfl, -⟩ | ⟨-, -, rfl⟩ <;> exact ⟨_, _, _, rfl⟩
  | unpad mode => rcases execUnpad_cases h with ⟨e, rfl, -⟩ | ⟨-, -, -, -, rfl⟩ <;> exact ⟨_, _, _, rfl⟩
  | decode mode =>
    rcases execDecode_cases h with ⟨e, rfl, -⟩ | ⟨-, -, -, -, -, ⟨-, rfl⟩ | ⟨-, -, rfl⟩⟩ <;> exact ⟨_, _, _, rfl⟩
  | encode => rcases execEncode_cases h with ⟨e, rfl, -⟩ | ⟨-, -, -, -, rfl⟩ <;> exact ⟨_, _, _, rfl⟩

/-! ### The six address and length registers (R26) -/

/-- The address and length registers at their offsets in the page (R21). -/
def addrLenRegs : List (Offset × RegName) :=
  [(0x014, .srcAddr), (0x018, .srcLen), (0x01C, .dstAddr), (0x020, .auxAddr), (0x024, .auxLen), (0x028, .outLen)]

theorem addrLenRegs_offset : ∀ p ∈ addrLenRegs, p.1.toNat = regOffset p.2 := by decide

theorem addrLenRegs_isOperandReg : ∀ p ∈ addrLenRegs, IsOperandReg p.2 := by unfold IsOperandReg; decide

theorem addrLenRegs_reset : ∀ p ∈ addrLenRegs, regWord State.reset p.2 = 0 := by decide

theorem regWord_addrLen_of_operandsKept {s t : State} (h : OperandsKept s.regs t.regs) :
    ∀ p ∈ addrLenRegs, regWord t p.2 = regWord s p.2 := by
  obtain ⟨c, k, v, ht⟩ := h
  simp [addrLenRegs, regWord, ht]

/-- Settles O49: the port's write and read of any operand register, and what commands leave of the operand registers. -/
theorem operandRegistersReadBack : Obligations.OperandRegistersReadBack := by
  unfold Obligations.OperandRegistersReadBack
  intro s off r v hmem
  refine ⟨⟨rfl, addrLenRegs_reset _ hmem⟩, fun he hn hi => ?_, fun i t h => ?_⟩
  · obtain ⟨t, u, hst, -, htu, hresp, hother, hbuf, -, -⟩ :=
      write_then_read_operand (addrLenRegs_isOperandReg _ hmem) (addrLenRegs_offset _ hmem) he hn hi
    exact ⟨t, u, hst, htu, hresp, hother, hbuf⟩
  · exact regWord_addrLen_of_operandsKept (exec_operandsKept h) _ hmem

end Sys2Proof.Machine
end

section
/-! Command words and the write of CMD (spec/30_encoding.md R57, R59, R61 to R64). -/

namespace Sys2Proof

/-! ### The words that decode (R57, R59) -/

/-- A word is its four fields of R57, one after the other. -/
theorem fields_append (v : Word) :
    reservedField v ++ BitVec.ofBool (strictBit v) ++ BitVec.ofBool (saltSelBit v) ++ opcodeField v = v := by
  ext i hi
  simp only [reservedField, strictBit, saltSelBit, opcodeField, BitVec.getElem_append, BitVec.getElem_ofBool,
    BitVec.getElem_extractLsb']
  grind

/-- An opcode is selected by its own byte only. -/
theorem opcodeByte_of_opcodeOfByte {b : Byte} {op : Opcode} (h : opcodeOfByte b = some op) : opcodeByte op = b := by
  have := List.find?_some h
  simpa using this

@[simp] theorem opcodeOf_buildInstr (op : Opcode) (salt strict : Bool) : opcodeOf (buildInstr op salt strict) = op := by
  cases op <;> rfl

theorem saltBitOf_buildInstr {op : Opcode} {salt : Bool} (strict : Bool) (h : salt = true → takesSaltSel op = true) :
    saltBitOf (buildInstr op salt strict) = salt := by
  cases op with
  | kdfBuf | kdfKey => cases salt <;> rfl
  | _ => simpa [buildInstr, saltBitOf, takesSaltSel] using h

theorem strictBitOf_buildInstr {op : Opcode} (salt : Bool) {strict : Bool} (h : strict = true → takesStrict op = true) :
    strictBitOf (buildInstr op salt strict) = strict := by
  cases op with
  | unpad | decode => cases strict <;> rfl
  | _ => simpa [buildInstr, strictBitOf, takesStrict] using h

/-- Only a command's own word decodes to it. -/
theorem encode_of_decode {v : Word} {i : Instr} (h : decode v = .ok i) : encode i = v := by
  unfold decode at h
  split at h
  · cases h
  · next op hop =>
    split_ifs at h with hres hsalt hstrict
    cases h
    have hzero : 0#22 = reservedField v := (not_not.mp hres).symm
    rw [encode, opcodeOf_buildInstr, saltBitOf_buildInstr _ (by simpa using hsalt),
      strictBitOf_buildInstr _ (by simpa using hstrict), opcodeByte_of_opcodeOfByte hop, hzero, fields_append]

/-- R59 lists the word of every command. -/
theorem wordWellFormed_encode (i : Instr) : wordWellFormed (encode i) = true := by
  cases i with
  | kdfBuf salt | kdfKey salt => cases salt <;> decide
  | unpad mode | decode mode => cases mode <;> decide
  | _ => decide

/-- The decoder rejects a word that R59 does not list (R64). -/
theorem decode_of_not_wellFormed {v : Word} (h : wordWellFormed v = false) : ∃ r, decode v = .error r := by
  cases hd : decode v with
  | error r => exact ⟨r, rfl⟩
  | ok i =>
    have hv : wordWellFormed v = true := encode_of_decode hd ▸ wordWellFormed_encode i
    exact absurd hv (by simp [h])

end Sys2Proof

namespace Sys2Proof.Machine

/-! ### A host write of CMD (R61, R62) -/

theorem writeCmd_of_idle {s : State} (he : s.eng = .idle) (v : Word) : writeCmd s v = s.accept v := by
  simp [writeCmd, he]

theorem writeCmd_of_busy {s : State} (he : s.eng = .busy) (v : Word) : writeCmd s v = { s with overrun := true } := by
  simp [writeCmd, he]

theorem writeTarget_cmd (s : State) {off : Offset} (ho : off.toNat = regOffset .cmd) (w : Width) (v : Word) :
    writeTarget s off w v = writeCmd s v := by
  simp only [writeTarget, targetAt_register ho, writeReg]

/-- A step that writes CMD while IDLE accepts the word (R61). -/
theorem step_write_cmd_of_idle {s : State} {v : Word} {rest : List HostInput} (he : s.eng = .idle) (hn : s.inReset = false)
    (hi : s.inputs = .write 0x00C .word v :: rest) : step s = .next ((s.accept v).answered rest .written) := by
  rw [step_write hn hi (by decide), writeTarget_cmd _ rfl, writeCmd_of_idle (s := { s with inputs := rest }) he]
  rfl

/-- Settles O43: at CMD's offset the port's write is `writeCmd`, which sets OVERRUN and nothing else while BUSY. -/
theorem cmdWriteWhileBusyIsDropped : Obligations.CmdWriteWhileBusyIsDropped := by
  unfold Obligations.CmdWriteWhileBusyIsDropped
  intro s v rest he hn hi
  rw [step_write hn hi (by decide), writeTarget_cmd _ rfl, writeCmd_of_busy (s := { s with inputs := rest }) he]

/-! ### An illegal word (R64) -/

/-- With no input left, a BUSY engine whose latched word is no command completes with ILLEGAL_CMD. -/
theorem step_of_illegal {s : State} {r : DecodeReject} (hi : s.inputs = []) (he : s.eng = .busy)
    (hd : decode s.cmdl = .error r) : step s = .next (raise .illegalCmd s) := by
  simp [step, stepOnce, hi, engineTurn, he, hd]

/-- Settles O3: the word is accepted, the decoder rejects it, and the engine's turn raises ILLEGAL_CMD. -/
theorem illegalWordIsAcceptedAndFails : Obligations.IllegalWordIsAcceptedAndFails := by
  unfold Obligations.IllegalWordIsAcceptedAndFails
  intro s v he hn hi hv
  obtain ⟨r, hr⟩ := decode_of_not_wellFormed hv
  refine ⟨_, _, step_write_cmd_of_idle he hn hi, rfl, rfl, step_of_illegal rfl rfl hr, ?_⟩
  exact ⟨rfl, rfl, rfl, rfl, rfl, rfl, rfl, rfl, rfl, rfl, rfl, fun _ => rfl, rfl, rfl⟩

end Sys2Proof.Machine
end

section
/-! AES (spec/45_primitives.md R104 to R113): each transformation of the cipher undoes its inverse and the other way round, the
length of every round key, and R113. -/

namespace Sys2Proof.Machine

/-! ### The byte substitutions (R107) -/

theorem invSbox_sbox : ∀ a, invSbox (sbox a) = a := by decide

theorem sbox_invSbox : ∀ a, sbox (invSbox a) = a := by decide

@[simp] theorem subBytes_length (s : Bytes) : (subBytes s).length = s.length := List.length_map _

@[simp] theorem invSubBytes_length (s : Bytes) : (invSubBytes s).length = s.length := List.length_map _

@[simp] theorem invSubBytes_subBytes (s : Bytes) : invSubBytes (subBytes s) = s := by
  have hid : invSbox ∘ sbox = id := funext invSbox_sbox
  rw [subBytes, invSubBytes, List.map_map, hid, List.map_id]

@[simp] theorem subBytes_invSubBytes (s : Bytes) : subBytes (invSubBytes s) = s := by
  have hid : sbox ∘ invSbox = id := funext sbox_invSbox
  rw [subBytes, invSubBytes, List.map_map, hid, List.map_id]

/-! ### The row shifts (R108), as moves of byte positions -/

/-- The block whose byte `i` is byte `f i` of `s`. -/
def moveBytes (f : Nat → Nat) (s : Bytes) : Bytes := (List.range 16).map fun i => byteAt s (f i)

@[simp] theorem moveBytes_length (f : Nat → Nat) (s : Bytes) : (moveBytes f s).length = 16 := by simp [moveBytes]

/-- A move by `g` undoes a move by `f` when `g` gives the place where `f` puts each byte. -/
theorem moveBytes_moveBytes {f g : Nat → Nat} {s : Bytes} (hs : s.length = 16)
    (h : ∀ i < 16, g i < 16 ∧ f (g i) = i) : moveBytes g (moveBytes f s) = s := by
  refine List.ext_getElem (by simp [hs]) fun i _ hi => ?_
  obtain ⟨hlt, hfg⟩ := h i (hs ▸ hi)
  simp [moveBytes, byteAt, hlt, hfg, hi]

@[simp] theorem shiftRows_length (s : Bytes) : (shiftRows s).length = 16 := moveBytes_length _ s

@[simp] theorem invShiftRows_length (s : Bytes) : (invShiftRows s).length = 16 := moveBytes_length _ s

theorem invShiftRows_shiftRows {s : Bytes} (hs : s.length = 16) : invShiftRows (shiftRows s) = s :=
  moveBytes_moveBytes hs (by omega)

theorem shiftRows_invShiftRows {s : Bytes} (hs : s.length = 16) : shiftRows (invShiftRows s) = s :=
  moveBytes_moveBytes hs (by omega)

/-! ### The column mixes (R105, R109)

The constants of R109 make products of `xtime` powers. `xtime` is linear, and its linearity is all that the two identities of a
row need: no power is ever reduced. -/

theorem byte_xor_left_comm (a b c : Byte) : a ^^^ (b ^^^ c) = b ^^^ (a ^^^ c) := by ac_rfl

theorem xtime_xor (a b : Byte) : xtime (a ^^^ b) = xtime a ^^^ xtime b := by
  unfold xtime
  rw [BitVec.msb_xor, BitVec.shiftLeft_xor_distrib]
  cases a.msb <;> cases b.msb <;> simp [BitVec.xor_assoc, BitVec.xor_comm, byte_xor_left_comm]

/-- A byte of MixColumns, from the bytes of its column from its own row on. -/
def mixRow (a b c d : Byte) : Byte := gmul a 2 ^^^ gmul b 3 ^^^ c ^^^ d

/-- A byte of InvMixColumns, from the bytes of its column from its own row on. -/
def invMixRow (a b c d : Byte) : Byte := gmul a 14 ^^^ gmul b 11 ^^^ gmul c 13 ^^^ gmul d 9

theorem mixColumns_cons (a b c d : Byte) (rest : Bytes) :
    mixColumns (a :: b :: c :: d :: rest) =
      mixRow a b c d :: mixRow b c d a :: mixRow c d a b :: mixRow d a b c :: mixColumns rest := by
  simp only [mixColumns, mixRow]
  ac_nf

theorem invMixColumns_cons (a b c d : Byte) (rest : Bytes) :
    invMixColumns (a :: b :: c :: d :: rest) =
      invMixRow a b c d :: invMixRow b c d a :: invMixRow c d a b :: invMixRow d a b c :: invMixColumns rest := by
  simp only [invMixColumns, invMixRow]
  ac_nf

theorem mixRow_eq_xtime (a b c d : Byte) : mixRow a b c d = xtime (a ^^^ b) ^^^ b ^^^ c ^^^ d := by
  simp [mixRow, gmul, gmulBits, xtime_xor]
  ac_rfl

/-- InvMixColumns is MixColumns and a second part, made of the sum of the column and the sum of two rows. -/
theorem invMixRow_eq_mixRow (a b c d : Byte) :
    invMixRow a b c d = mixRow a b c d ^^^ xtime (xtime (xtime (a ^^^ b ^^^ c ^^^ d) ^^^ (a ^^^ c))) := by
  simp [mixRow_eq_xtime, invMixRow, gmul, gmulBits, xtime_xor]
  ac_rfl

/-- MixColumns keeps the sum of a column. -/
theorem mixRow_sum (a b c d : Byte) :
    mixRow a b c d ^^^ mixRow b c d a ^^^ mixRow c d a b ^^^ mixRow d a b c = a ^^^ b ^^^ c ^^^ d := by
  simp [mixRow_eq_xtime, xtime_xor, BitVec.xor_assoc, BitVec.xor_comm, byte_xor_left_comm]

theorem mixRow_xor_mixRow (a b c d : Byte) :
    mixRow a b c d ^^^ mixRow c d a b = xtime (a ^^^ b ^^^ c ^^^ d) ^^^ (a ^^^ c) := by
  simp [mixRow_eq_xtime, xtime_xor, BitVec.xor_assoc, BitVec.xor_comm, byte_xor_left_comm]

theorem mixRow_mixRow (a b c d : Byte) :
    mixRow (mixRow a b c d) (mixRow b c d a) (mixRow c d a b) (mixRow d a b c) = a ^^^ xtime (xtime (a ^^^ c)) := by
  simp [mixRow_eq_xtime, xtime_xor, BitVec.xor_assoc, BitVec.xor_comm, byte_xor_left_comm]

theorem mixRow_xor (a b c d a' b' c' d' : Byte) :
    mixRow (a ^^^ a') (b ^^^ b') (c ^^^ c') (d ^^^ d') = mixRow a b c d ^^^ mixRow a' b' c' d' := by
  simp only [mixRow_eq_xtime, xtime_xor]
  ac_rfl

theorem invMixRow_mixRow (a b c d : Byte) :
    invMixRow (mixRow a b c d) (mixRow b c d a) (mixRow c d a b) (mixRow d a b c) = a := by
  rw [invMixRow_eq_mixRow, mixRow_mixRow, mixRow_sum, mixRow_xor_mixRow]
  simp [BitVec.xor_assoc]

theorem mixRow_invMixRow (a b c d : Byte) :
    mixRow (invMixRow a b c d) (invMixRow b c d a) (invMixRow c d a b) (invMixRow d a b c) = a := by
  simp only [invMixRow_eq_mixRow, mixRow_xor, mixRow_mixRow]
  simp [mixRow_eq_xtime, xtime_xor, BitVec.xor_assoc, BitVec.xor_comm, byte_xor_left_comm]

/-- What holds of the empty string and is kept by one more column in front holds of whole columns. -/
theorem column_induction {P : Bytes → Prop} (nil : P [])
    (column : ∀ a b c d rest, P rest → P (a :: b :: c :: d :: rest)) : ∀ s : Bytes, s.length % 4 = 0 → P s
  | [], _ => nil
  | a :: b :: c :: d :: rest, h =>
    have hrest : rest.length % 4 = 0 := by simp only [List.length_cons] at h; omega
    column a b c d rest (column_induction nil column rest hrest)
  | [_], h | [_, _], h | [_, _, _], h => absurd h (by simp)

theorem mixColumns_length {s : Bytes} (h : s.length % 4 = 0) : (mixColumns s).length = s.length := by
  refine column_induction (P := fun s => (mixColumns s).length = s.length) rfl (fun a b c d rest ih => ?_) s h
  simp [mixColumns_cons, ih]

theorem invMixColumns_length {s : Bytes} (h : s.length % 4 = 0) : (invMixColumns s).length = s.length := by
  refine column_induction (P := fun s => (invMixColumns s).length = s.length) rfl (fun a b c d rest ih => ?_) s h
  simp [invMixColumns_cons, ih]

theorem invMixColumns_mixColumns {s : Bytes} (h : s.length % 4 = 0) : invMixColumns (mixColumns s) = s := by
  refine column_induction (P := fun s => invMixColumns (mixColumns s) = s) rfl (fun a b c d rest ih => ?_) s h
  rw [mixColumns_cons, invMixColumns_cons]
  simp only [invMixRow_mixRow, ih]

theorem mixColumns_invMixColumns {s : Bytes} (h : s.length % 4 = 0) : mixColumns (invMixColumns s) = s := by
  refine column_induction (P := fun s => mixColumns (invMixColumns s) = s) rfl (fun a b c d rest ih => ?_) s h
  rw [invMixColumns_cons, mixColumns_cons]
  simp only [mixRow_invMixRow, ih]

/-! ### The expanded key (R110) -/

/-- `w` is `n` words of four bytes. -/
def IsWords (n : Nat) (w : List Bytes) : Prop := w.length = n ∧ ∀ x ∈ w, x.length = 4

theorem isWords_append {m n : Nat} {v w : List Bytes} (hv : IsWords m v) (hw : IsWords n w) : IsWords (m + n) (v ++ w) := by
  obtain ⟨hvn, hv4⟩ := hv
  obtain ⟨hwn, hw4⟩ := hw
  exact ⟨by rw [List.length_append, hvn, hwn], fun x hx => (List.mem_append.mp hx).elim (hv4 x) (hw4 x)⟩

theorem flatten_length_of_isWords {n : Nat} {w : List Bytes} (h : IsWords n w) : w.flatten.length = 4 * n := by
  obtain ⟨hn, h4⟩ := h
  rw [List.length_flatten, List.sum_eq_card_nsmul _ 4 (by simpa using h4), List.length_map, hn, smul_eq_mul, Nat.mul_comm]

theorem getD_length_of_isWords {n i : Nat} {w : List Bytes} (h : IsWords n w) (hi : i < n) : (w.getD i []).length = 4 := by
  obtain ⟨rfl, h4⟩ := h
  rw [List.getD_eq_getElem _ _ hi]
  exact h4 _ (List.getElem_mem hi)

@[simp] theorem rotWord_length (x : Bytes) : (rotWord x).length = x.length := by
  cases x <;> simp [rotWord]

theorem keyTemp_length {x : Bytes} (nk i : Nat) (h : x.length = 4) : (keyTemp nk i x).length = 4 := by
  unfold keyTemp
  split_ifs <;> simp [h]

theorem keyStep_isWords {nk n : Nat} {w : List Bytes} (h : IsWords n w) (hnk : 0 < nk) (hn : nk ≤ n) :
    IsWords (n + 1) (keyStep nk w n) := by
  have hback : (w.getD (n - nk) []).length = 4 := getD_length_of_isWords h (by omega)
  have hprev : (w.getD (n - 1) []).length = 4 := getD_length_of_isWords h (by omega)
  refine isWords_append h ⟨rfl, List.forall_mem_singleton.mpr ?_⟩
  rw [xorBytes_length, hback, keyTemp_length nk n hprev, min_self]

theorem foldl_keyStep_isWords {nk n : Nat} {w : List Bytes} (m : Nat) (h : IsWords n w) (hnk : 0 < nk) (hn : nk ≤ n) :
    IsWords (n + m) ((List.range' n m).foldl (keyStep nk) w) := by
  induction m generalizing n w with
  | zero => exact h
  | succ m ih =>
    have := ih (keyStep_isWords h hnk hn) (by omega)
    rwa [Nat.add_assoc, Nat.add_comm 1] at this

/-- The expanded key holds four words for each of the `Nr + 1` round keys. -/
theorem keyExpand_isWords {k : Bytes} (h : 0 < aesNk k) : IsWords (4 * (aesNr k + 1)) (keyExpand k) := by
  have hlen : 4 * aesNk k ≤ k.length := Nat.mul_div_le _ _
  have hchunks : IsWords (aesNk k) (chunks 4 (aesNk k) k) :=
    ⟨chunks_length _ _ _, fun _ => length_of_mem_chunks hlen⟩
  have hle : aesNk k + (4 * (aesNr k + 1) - aesNk k) = 4 * (aesNr k + 1) := by unfold aesNr; omega
  exact hle ▸ foldl_keyStep_isWords _ hchunks h (Nat.le_refl _)

theorem roundKey_length {n r : Nat} {w : List Bytes} (h : IsWords (4 * (n + 1)) w) (hr : r ≤ n) :
    (roundKey w r).length = 16 := by
  obtain ⟨hn, h4⟩ := h
  exact flatten_length_of_isWords (n := 4)
    ⟨by simp [hn]; omega, fun x hx => h4 x (List.mem_of_mem_drop (List.mem_of_mem_take hx))⟩

/-! ### The rounds (R111, R112) -/

/-- The part of a round of the cipher that takes no key and mixes no column. -/
def subShift (s : Bytes) : Bytes := shiftRows (subBytes s)

/-- The part of a round of the inverse cipher that takes no key and mixes no column. -/
def invSubShift (s : Bytes) : Bytes := invSubBytes (invShiftRows s)

@[simp] theorem subShift_length (s : Bytes) : (subShift s).length = 16 := shiftRows_length _

@[simp] theorem invSubShift_length (s : Bytes) : (invSubShift s).length = 16 := by simp [invSubShift]

theorem invSubShift_subShift {s : Bytes} (h : s.length = 16) : invSubShift (subShift s) = s := by
  rw [invSubShift, subShift, invShiftRows_shiftRows (by simpa using h), invSubBytes_subBytes]

theorem subShift_invSubShift {s : Bytes} (h : s.length = 16) : subShift (invSubShift s) = s := by
  rw [invSubShift, subShift, subBytes_invSubBytes, shiftRows_invShiftRows h]

theorem encRound_eq (w : List Bytes) (s : Bytes) (r : Nat) :
    encRound w s r = addRoundKey w r (mixColumns (subShift s)) := rfl

theorem decRound_eq (w : List Bytes) (s : Bytes) (r : Nat) :
    decRound w s r = invMixColumns (addRoundKey w r (invSubShift s)) := rfl

theorem aesEncWith_eq (w : List Bytes) (nr : Nat) (b : Bytes) :
    aesEncWith w nr b =
      addRoundKey w nr (subShift ((List.range' 1 (nr - 1)).foldl (encRound w) (addRoundKey w 0 b))) := rfl

theorem aesDecWith_eq (w : List Bytes) (nr : Nat) (b : Bytes) :
    aesDecWith w nr b =
      addRoundKey w 0 (invSubShift ((List.range' 1 (nr - 1)).reverse.foldl (decRound w) (addRoundKey w nr b))) := rfl

/-- Every round key of rounds 0 to `nr` is a block. -/
def RoundKeysAreBlocks (w : List Bytes) (nr : Nat) : Prop := ∀ r ≤ nr, (roundKey w r).length = 16

section
variable {w : List Bytes} {r : Nat} {s : Bytes} (hk : (roundKey w r).length = 16)
include hk

theorem addRoundKey_length (hs : s.length = 16) : (addRoundKey w r s).length = 16 := by
  simp [addRoundKey, hk, hs]

theorem addRoundKey_addRoundKey (hs : s.length = 16) : addRoundKey w r (addRoundKey w r s) = s :=
  xorBytes_cancel (by rw [hk, hs])

theorem encRound_length : (encRound w s r).length = 16 :=
  addRoundKey_length hk (by rw [mixColumns_length] <;> simp)

theorem decRound_length : (decRound w s r).length = 16 := by
  have hadd : (addRoundKey w r (invSubShift s)).length = 16 := addRoundKey_length hk (invSubShift_length s)
  rw [decRound_eq, invMixColumns_length (by rw [hadd]), hadd]

/-- A middle round of the inverse cipher takes `subShift` of what the cipher's round gives to `subShift` of what it took. -/
theorem decRound_subShift_encRound : decRound w (subShift (encRound w s r)) r = subShift s := by
  have hmix : (mixColumns (subShift s)).length = 16 := by rw [mixColumns_length] <;> simp
  rw [decRound_eq, invSubShift_subShift (encRound_length hk), encRound_eq, addRoundKey_addRoundKey hk hmix,
    invMixColumns_mixColumns (by simp)]

/-- A middle round of the cipher takes `invSubShift` of what the inverse cipher's round gives to `invSubShift` of what it took. -/
theorem encRound_invSubShift_decRound : encRound w (invSubShift (decRound w s r)) r = invSubShift s := by
  have hadd : (addRoundKey w r (invSubShift s)).length = 16 := addRoundKey_length hk (invSubShift_length s)
  rw [encRound_eq, subShift_invSubShift (decRound_length hk), decRound_eq, mixColumns_invMixColumns (by rw [hadd]),
    addRoundKey_addRoundKey hk (invSubShift_length s)]

end

/-- If `g` takes `h` of each step of `f` back to `h` of where the step began, then the steps of `g` in the other order take back all
of them. -/
theorem foldl_reverse_foldl {α β : Type} {f g : β → α → β} {h : β → β} {l : List α}
    (hgf : ∀ x ∈ l, ∀ b, g (h (f b x)) x = h b) (b : β) : l.reverse.foldl g (h (l.foldl f b)) = h b := by
  induction l generalizing b with
  | nil => rfl
  | cons x l ih =>
    rw [List.foldl_cons, List.reverse_cons, List.foldl_append, ih fun y hy => hgf y (List.mem_cons_of_mem x hy)]
    exact hgf x List.mem_cons_self b

/-! ### The cipher and the inverse cipher (R113) -/

section
variable {w : List Bytes} {nr : Nat} (hk : RoundKeysAreBlocks w nr)
include hk

/-- The round key of a middle round is a block. -/
theorem middle_roundKey_length {r : Nat} (hr : r ∈ List.range' 1 (nr - 1)) : (roundKey w r).length = 16 := by
  rw [List.mem_range'_1] at hr
  exact hk r (by omega)

theorem aesDecWith_aesEncWith {b : Bytes} (hb : b.length = 16) : aesDecWith w nr (aesEncWith w nr b) = b := by
  have hfirst := hk 0 (Nat.zero_le nr)
  have hlast := hk nr (Nat.le_refl nr)
  have hrounds := foldl_reverse_foldl (f := encRound w) (g := decRound w) (h := subShift) (l := List.range' 1 (nr - 1))
    (fun _ hr _ => decRound_subShift_encRound (middle_roundKey_length hk hr)) (addRoundKey w 0 b)
  rw [aesEncWith_eq, aesDecWith_eq, addRoundKey_addRoundKey hlast (subShift_length _), hrounds,
    invSubShift_subShift (addRoundKey_length hfirst hb), addRoundKey_addRoundKey hfirst hb]

theorem aesEncWith_aesDecWith {b : Bytes} (hb : b.length = 16) : aesEncWith w nr (aesDecWith w nr b) = b := by
  have hfirst := hk 0 (Nat.zero_le nr)
  have hlast := hk nr (Nat.le_refl nr)
  have hrounds := foldl_reverse_foldl (f := decRound w) (g := encRound w) (h := invSubShift)
    (l := (List.range' 1 (nr - 1)).reverse)
    (fun _ hr _ => encRound_invSubShift_decRound (middle_roundKey_length hk (List.mem_reverse.mp hr))) (addRoundKey w nr b)
  rw [List.reverse_reverse] at hrounds
  rw [aesDecWith_eq, aesEncWith_eq, addRoundKey_addRoundKey hfirst (invSubShift_length _), hrounds,
    subShift_invSubShift (addRoundKey_length hlast hb), addRoundKey_addRoundKey hlast hb]

end

/-- Settles O34: each round of one cipher takes back a round of the other, for every key of at least one word. -/
theorem aesInverts : Obligations.AesInverts := by
  unfold Obligations.AesInverts
  intro k b hk hb
  have hnk : 0 < aesNk k := by unfold aesNk; omega
  have hkeys : RoundKeysAreBlocks (keyExpand k) (aesNr k) := fun _ => roundKey_length (keyExpand_isWords hnk)
  exact ⟨aesDecWith_aesEncWith hkeys hb, aesEncWith_aesDecWith hkeys hb⟩

end Sys2Proof.Machine
end

section
/-! Decoding and encoding of command words (spec/30_encoding.md R57, R59, R63). -/

namespace Sys2Proof

/-- Every command's word decodes to it. -/
@[simp] theorem decode_encode (i : Instr) : decode (encode i) = .ok i := by
  cases i with
  | kdfBuf salt | kdfKey salt => cases salt <;> decide
  | unpad mode | decode mode => cases mode <;> decide
  | _ => decide

/-- The commands in the order of R59's list of words. -/
def listedCommands : List Instr :=
  [.crcCompute, .crcUpdate, .crcVerify, .crcAppend, .kdfBuf .auxRegion, .kdfBuf .fixedSalt, .kdfKey .auxRegion,
   .kdfKey .fixedSalt, .cbcEnc, .cbcDec, .pad, .unpad .lenient, .unpad .strict, .decode .lenient, .decode .strict, .encode]

theorem legalWords_eq_map_encode : legalWords = listedCommands.map encode := by decide

theorem exists_decode_of_wellFormed {v : Word} (h : wordWellFormed v = true) : ∃ i, decode v = .ok i := by
  have hv : v ∈ listedCommands.map encode := by simpa [wordWellFormed, legalWords_eq_map_encode] using h
  obtain ⟨i, -, rfl⟩ := List.mem_map.mp hv
  exact ⟨i, decode_encode i⟩

/-- Settles O1: `encode_of_decode` one way, `decode_encode` the other. -/
theorem decodeAndEncodeAgree : Obligations.DecodeAndEncodeAgree := by
  unfold Obligations.DecodeAndEncodeAgree
  exact fun v i => ⟨encode_of_decode, fun h => h ▸ decode_encode i⟩

/-- Settles O2: a decoded word is the word of its command, which R59 lists; each listed word decodes. -/
theorem decodableWordsAreTheListedWords : Obligations.DecodableWordsAreTheListedWords := by
  unfold Obligations.DecodableWordsAreTheListedWords
  refine fun v => ⟨?_, exists_decode_of_wellFormed⟩
  rintro ⟨i, hi⟩
  exact encode_of_decode hi ▸ wordWellFormed_encode i

/-- Settles O4: fixed words, by evaluation of the decoder. -/
theorem sampleWordsDecode : Obligations.SampleWordsDecode := by
  unfold Obligations.SampleWordsDecode
  decide

end Sys2Proof
end

section
/-! A command as its operand checks (spec/60_exceptions.md R118, steps 2 to 6) and its body (step 7 and the completion). The laws of
Sys2Proof/Laws/Exec.lean say what each command can do; here each command is brought to one form, so that a fact about all commands
is one fact about the checks and one about the bodies. -/

namespace Sys2Proof.Machine

/-! ### The checks -/

/-- `body` runs when no operand error is due; else the error due is reported. -/
def checked (e : ErrCode) (s body : State) : State := if e = .none then body else raise e s

@[simp] theorem checked_none (s body : State) : checked .none s body = body := rfl

theorem checked_of_ne {e : ErrCode} (h : e ≠ .none) (s body : State) : checked e s body = raise e s := if_neg h

/-- A check of a command's rule is the first error of a list of errors. -/
theorem checked_ite {e : ErrCode} (he : e ≠ .none) (c : Prop) [Decidable c] (e' : ErrCode) (s body : State) :
    checked (if c then e else e') s body = if c then raise e s else checked e' s body := by
  split
  · exact checked_of_ne he s body
  · rfl

/-! ### The bodies -/

/-- What a command does once its operands are in order, its completion included (40_checksum.md to 43_container.md). -/
def commandBody (i : Instr) (s : State) : State :=
  let o := s.snap.regs
  let data := memRead s (srcRegion o)
  match i with
  | .crcCompute => finish ((s.setCrc (checksum data)).setDstLen 0)
  | .crcUpdate => finish ((s.setCrc (crc o.crcValue data)).setDstLen 0)
  | .crcVerify => finish (((s.setCrc (verify data).1).warnIf (verify data).2).setDstLen 0)
  | .crcAppend =>
    finish (((s.memWrite (trailerRegion o).addr (le32 (checksum data))).setCrc (checksum data)).setDstLen 4)
  | .kdfBuf salt =>
    finish ((s.memWrite o.dstAddr.toNat (kdf kdfHash data (saltBytes s salt) o.kdfIter.toNat o.outLen.toNat)).setDstLen
      o.outLen.toNat)
  | .kdfKey salt =>
    finish ((s.setKey (keyFileOf (kdf kdfHash data (saltBytes s salt) o.kdfIter.toNat o.keyLen.toNat ++
      rep (32 - o.keyLen.toNat) 0x00))).setDstLen o.keyLen.toNat)
  | .cbcEnc => finish ((s.memWrite o.dstAddr.toNat (cbcEnc (keyBytes o) (ivBytes o) data)).setDstLen o.srcLen.toNat)
  | .cbcDec => finish ((s.memWrite o.dstAddr.toNat (cbcDec (keyBytes o) (ivBytes o) data)).setDstLen o.srcLen.toNat)
  | .pad => finish ((s.memWrite o.dstAddr.toNat (padBytes data)).setDstLen (o.srcLen.toNat + padLen o.srcLen.toNat))
  | .unpad mode =>
    if mode = .strict ∧ ¬PadValid data then raise .badPadding s
    else finish ((s.memWrite o.dstAddr.toNat (unpadL data)).setDstLen (unpadL data).length)
  | .decode mode =>
    if (mode = .strict ∧ ¬PadValid (decodePlain s)) ∨ ¬Config.structuredValid (unpadL (decodePlain s)) then
      raise .decryptionFailed ((decodeWarned s).memForget (dstRegion o (o.srcLen.toNat - 20)))
    else
      finish (((decodeWarned s).memWrite o.dstAddr.toNat (unpadL (decodePlain s))).setDstLen
        (unpadL (decodePlain s)).length)
  | .encode =>
    if ¬Config.structuredValid data then raise .invalidPlaintext s
    else
      finish ((((s.drawTaken.memWrite o.dstAddr.toNat (encodeBody s ++ le32 (checksum (encodeBody s)))).setIv
        (ivFileOf (nextDraw s))).setCrc (checksum (encodeBody s))).setDstLen (containerLen o.srcLen.toNat))

/-! ### Every command is its checks and its body -/

theorem elim_ite_some {α β : Type} (c : Prop) [Decidable c] (a : α) (b : β) (f : α → β) :
    (if c then some a else none).elim b f = if c then f a else b := by
  split <;> rfl

/-- A check over a list of regions is one check for each, in order. -/
theorem ite_any_eq_foldr {α β : Type} (p : α → Prop) [DecidablePred p] (l : List α) (a b : β) :
    (if (l.any fun x => decide (p x)) = true then a else b) = l.foldr (fun x rest => if p x then a else rest) b := by
  induction l with
  | nil => rfl
  | cons x l ih =>
    rw [List.foldr_cons, ← ih]
    by_cases h : p x <;> simp [h]

theorem ne_none_of_lengthError {i : Instr} {o : OperandRegs} {e : ErrCode} (h : lengthError i o = some e) : e ≠ .none := by
  rintro rfl
  cases i <;> simp [lengthError] at h

/-- The table with its local names written out. -/
theorem operandError_eq (i : Instr) (s : State) :
    operandError i s =
      if needsKeyLen i = true ∧ ¬KeyLenOk s.snap.regs then .badKeyLen
      else if paramError i s.snap.regs = true then .invalidParameter
      else (lengthError i s.snap.regs).getD
        (if ∃ r ∈ usedRegions i s.snap.regs, ¬InRange s r then .badRange
          else if overlapError i s.snap.regs = true then .overlap else .none) := by
  simp only [operandError, Bool.and_eq_true, Bool.not_eq_true', decide_eq_false_iff_not, List.any_eq_true]
  cases lengthError i s.snap.regs <;> rfl

/-- A list of errors gives another value only past its first entry. -/
theorem ite_eq_iff_of_ne {e d : ErrCode} (h : e ≠ d) (c : Prop) [Decidable c] (e' : ErrCode) :
    (if c then e else e') = d ↔ ¬c ∧ e' = d := by
  by_cases hc : c <;> simp [hc, h]

/-- The checks of R118 one after the other: each is due by the table of R117, each region of a list gets its own. -/
theorem checked_operandError (i : Instr) (s body : State) :
    checked (operandError i s) s body =
      if needsKeyLen i = true ∧ ¬KeyLenOk s.snap.regs then raise .badKeyLen s
      else if paramError i s.snap.regs = true then raise .invalidParameter s
      else (lengthError i s.snap.regs).elim
        ((usedRegions i s.snap.regs).foldr (fun r rest => if ¬InRange s r then raise .badRange s else rest)
          ((destRegion i s.snap.regs).elim body fun d => (sourceRegions i s.snap.regs).foldr
            (fun r rest => if PartialOverlap d r then raise .overlap s else rest) body))
        fun e => raise e s := by
  have overlaps : checked (if overlapError i s.snap.regs = true then .overlap else .none) s body =
      (destRegion i s.snap.regs).elim body fun d => (sourceRegions i s.snap.regs).foldr
        (fun r rest => if PartialOverlap d r then raise .overlap s else rest) body := by
    rw [checked_ite (by decide), checked_none, overlapError]
    cases destRegion i s.snap.regs with
    | none => rfl
    | some d =>
      simp only [Option.toList_some, List.any_cons, List.any_nil, Bool.or_false, Option.elim_some]
      exact ite_any_eq_foldr (PartialOverlap d) _ _ _
  have ranges := ite_any_eq_foldr (fun r => ¬InRange s r) (usedRegions i s.snap.regs) (raise .badRange s)
    (checked (if overlapError i s.snap.regs = true then .overlap else .none) s body)
  simp only [operandError, Bool.and_eq_true, Bool.not_eq_true', decide_eq_false_iff_not]
  rw [checked_ite (by decide), checked_ite (by decide), ← overlaps, ← ranges]
  cases hl : lengthError i s.snap.regs with
  | some e => rw [checked_of_ne (ne_none_of_lengthError hl), Option.elim_some]
  | none => rw [checked_ite (by decide), Option.elim_none]; simp only [decide_not]

theorem not_partialOverlap_trailerRegion (o : OperandRegs) : ¬PartialOverlap (trailerRegion o) (srcRegion o) :=
  fun ⟨_, _, h, _, _⟩ => absurd h (Nat.lt_irrefl _)

/-- CRC_APPEND makes one range check for its source and its trailer together, and needs no check for overlap. -/
theorem execCrcAppend_eq (s : State) :
    execCrcAppend s = .next (checked (operandError .crcAppend s) s (commandBody .crcAppend s)) := by
  have hsum : InRange s ⟨(srcRegion s.snap.regs).addr, (srcRegion s.snap.regs).len + 4⟩ ↔
      InRange s (trailerRegion s.snap.regs) := by
    simp only [InRange, srcRegion, trailerRegion, Nat.add_assoc]
  have hsrc (h : InRange s (trailerRegion s.snap.regs)) : InRange s (srcRegion s.snap.regs) := Nat.le_of_add_right_le h
  rw [checked_operandError, execCrcAppend]
  simp only [hsum]
  change _ = Host.Outcome.next (if ¬InRange s (srcRegion s.snap.regs) then raise .badRange s
    else if ¬InRange s (trailerRegion s.snap.regs) then raise .badRange s
    else if PartialOverlap (trailerRegion s.snap.regs) (srcRegion s.snap.regs) then raise .overlap s
    else commandBody .crcAppend s)
  rw [if_neg (not_partialOverlap_trailerRegion s.snap.regs)]
  by_cases h : InRange s (trailerRegion s.snap.regs)
  · rw [if_neg (not_not.mpr h), if_neg (not_not.mpr h), if_neg (not_not.mpr (hsrc h))]
    rfl
  · rw [if_pos h, if_pos h, ite_self]

theorem exec_eq (i : Instr) (s : State) : exec i s = .next (checked (operandError i s) s (commandBody i s)) := by
  cases i with
  | crcAppend => exact execCrcAppend_eq s
  | crcCompute | crcUpdate | pad => rw [checked_operandError]; rfl
  | crcVerify | unpad => rw [checked_operandError, lengthError, elim_ite_some]; rfl
  | cbcEnc | cbcDec =>
    rw [checked_operandError, lengthError, elim_ite_some]
    simp only [needsKeyLen, true_and]
    rfl
  | encode =>
    rw [checked_operandError]
    simp only [needsKeyLen, true_and]
    rfl
  | decode mode =>
    rw [checked_operandError, lengthError, elim_ite_some]
    simp only [needsKeyLen, true_and, commandBody, ite_or]
    rfl
  | kdfBuf salt =>
    rw [checked_operandError]
    cases salt with
    | auxRegion =>
      simp only [paramError, Bool.or_eq_true, beq_iff_eq, exec, execKdfBuf, SaltInRange, true_and, true_imp_iff]
      rfl
    | fixedSalt =>
      simp only [paramError, Bool.or_eq_true, beq_iff_eq, exec, execKdfBuf, SaltInRange, reduceCtorEq, false_and,
        false_imp_iff, not_true, if_false]
      rfl
  | kdfKey salt =>
    rw [checked_operandError]
    cases salt with
    | auxRegion =>
      simp only [paramError, needsKeyLen, beq_iff_eq, exec, execKdfKey, SaltInRange, true_and, true_imp_iff]
      rfl
    | fixedSalt =>
      simp only [paramError, needsKeyLen, true_and, beq_iff_eq, exec, execKdfKey, SaltInRange, reduceCtorEq,
        false_imp_iff, not_true, if_false]
      rfl

/-! ### What it means that no operand error is due -/

theorem operandError_eq_none_iff (i : Instr) (s : State) :
    operandError i s = .none ↔
      (needsKeyLen i = true → KeyLenOk s.snap.regs) ∧ paramError i s.snap.regs = false ∧
      lengthError i s.snap.regs = none ∧ (∀ r ∈ usedRegions i s.snap.regs, InRange s r) ∧
      overlapError i s.snap.regs = false := by
  rw [operandError_eq, ite_eq_iff_of_ne (by decide), ite_eq_iff_of_ne (by decide)]
  cases hl : lengthError i s.snap.regs with
  | some e => simp [ne_none_of_lengthError hl]
  | none =>
    rw [Option.getD_none, ite_eq_iff_of_ne (by decide), ite_eq_iff_of_ne (by decide)]
    simp only [not_and, not_not, Bool.not_eq_true, not_exists, true_and, and_true]

/-- The destination of a command whose operands are in order lies in BUF. -/
theorem inRange_destRegion {i : Instr} {s : State} {r : Region} (h : operandError i s = .none)
    (hr : destRegion i s.snap.regs = some r) : InRange s r := by
  obtain ⟨-, -, -, hrange, -⟩ := (operandError_eq_none_iff i s).mp h
  exact hrange r (List.mem_append_right _ (by rw [hr]; exact List.mem_singleton_self r))

/-- A late failure of DECODE is no operand error. -/
theorem operandError_ne_decryptionFailed (i : Instr) (s : State) : operandError i s ≠ .decryptionFailed := by
  have hlen : lengthError i s.snap.regs ≠ some .decryptionFailed := by
    cases i <;> simp [lengthError]
  rw [operandError_eq, ne_eq, ite_eq_iff_of_ne (by decide), ite_eq_iff_of_ne (by decide)]
  rintro ⟨-, -, h⟩
  cases hl : lengthError i s.snap.regs with
  | some e => rw [hl] at h; exact hlen (hl.trans (congrArg some h))
  | none =>
    rw [hl, Option.getD_none, ite_eq_iff_of_ne (by decide), ite_eq_iff_of_ne (by decide)] at h
    exact absurd h.2.2 (by decide)

/-- Everything a command can do: an operand error changes STATUS and DST_LEN only; else its body runs. -/
theorem exec_cases {i : Instr} {s t : State} (h : exec i s = .next t) :
    (operandError i s ≠ .none ∧ t = raise (operandError i s) s) ∨ (operandError i s = .none ∧ t = commandBody i s) := by
  rw [exec_eq, Host.Outcome.next.injEq] at h
  by_cases he : operandError i s = .none
  · rw [he, checked_none] at h
    exact .inr ⟨he, h.symm⟩
  · rw [checked_of_ne he] at h
    exact .inl ⟨he, h.symm⟩

theorem exec_of_operandError {i : Instr} {s : State} (h : operandError i s ≠ .none) :
    exec i s = .next (raise (operandError i s) s) := by
  rw [exec_eq, checked_of_ne h]

theorem exec_of_operandsInOrder {i : Instr} {s : State} (h : operandError i s = .none) :
    exec i s = .next (commandBody i s) := by
  rw [exec_eq, h, checked_none]

end Sys2Proof.Machine
end

section
/-! The checksum (spec/40_checksum.md R69 to R72): one iteration of R69 is linear, so a byte folded into the state is eight
iterations of their XOR; with bit 31 of the generator set an iteration loses no bit. -/

namespace Sys2Proof.Machine

/-! ### Linearity (R69) -/

theorem crcShift_of_bit {g v : Word} (h : v.getLsbD 0 = true) : crcShift g v = (v >>> 1) ^^^ g := if_pos h

theorem crcShift_of_no_bit {g v : Word} (h : v.getLsbD 0 = false) : crcShift g v = v >>> 1 :=
  if_neg (Bool.not_eq_true _ ▸ h)

theorem word_xor_left_comm (a b c : Word) : a ^^^ (b ^^^ c) = b ^^^ (a ^^^ c) := by ac_rfl

theorem crcShift_xor (g v w : Word) : crcShift g (v ^^^ w) = crcShift g v ^^^ crcShift g w := by
  unfold crcShift
  rw [BitVec.getLsbD_xor, BitVec.ushiftRight_xor_distrib]
  cases v.getLsbD 0 <;> cases w.getLsbD 0 <;> simp [BitVec.xor_assoc, BitVec.xor_comm, word_xor_left_comm]

theorem crcShift_iterate_xor (g v w : Word) (n : Nat) :
    (crcShift g)^[n] (v ^^^ w) = (crcShift g)^[n] v ^^^ (crcShift g)^[n] w := by
  induction n generalizing v w with
  | zero => rfl
  | succ n ih => simp only [Function.iterate_succ_apply, crcShift_xor, ih]

/-- An iteration with bit 0 clear is a shift. -/
theorem crcShift_iterate_of_low_zero (g v : Word) (n : Nat) (h : ∀ i < n, v.getLsbD i = false) :
    (crcShift g)^[n] v = v >>> n := by
  induction n generalizing v with
  | zero => simp
  | succ n ih =>
    have hstep : crcShift g v = v >>> 1 := crcShift_of_no_bit (h 0 (by omega))
    rw [Function.iterate_succ_apply, hstep, ih, ← BitVec.shiftRight_add, Nat.add_comm]
    intro i hi
    rw [BitVec.getLsbD_ushiftRight]
    exact h _ (by omega)

theorem crcTable_zero (g : Word) : crcTable g 0x00 = 0 :=
  (crcShift_iterate_of_low_zero g 0 8 (by simp)).trans (by decide)

/-- Bit 7 comes to bit 0 after seven shifts. -/
theorem crcTable_0x80 (g : Word) : crcTable g 0x80 = g := by
  have h7 : (crcShift g)^[7] 0x80 = 1 := (crcShift_iterate_of_low_zero g 0x80 7 (by decide)).trans (by decide)
  rw [crcTable, Function.iterate_succ_apply', show BitVec.setWidth 32 (0x80 : Byte) = 0x80 from rfl, h7]
  simp [crcShift]

theorem crcTable_xor (g : Word) (i j : Byte) : crcTable g (i ^^^ j) = crcTable g i ^^^ crcTable g j := by
  rw [crcTable, BitVec.setWidth_xor, crcShift_iterate_xor]
  rfl

/-! ### The fold (R70) -/

/-- A state is its low byte and the rest. -/
theorem word_eq_high_xor_low (st : Word) : ((st >>> 8) <<< 8) ^^^ (st.extractLsb' 0 8).setWidth 32 = st := by
  apply BitVec.eq_of_getLsbD_eq
  intro i hi
  simp only [BitVec.getLsbD_xor, BitVec.getLsbD_shiftLeft, BitVec.getLsbD_ushiftRight, BitVec.getLsbD_setWidth,
    BitVec.getLsbD_extractLsb', hi]
  by_cases h : i < 8
  · simp [h]
  · simp [h, show 8 + (i - 8) = i by omega]

theorem high_shiftRight (st : Word) : ((st >>> 8) <<< 8) >>> 8 = st >>> 8 := by
  apply BitVec.eq_of_getLsbD_eq
  intro i hi
  simp only [BitVec.getLsbD_shiftLeft, BitVec.getLsbD_ushiftRight]
  by_cases h : 8 + i < 32
  · simp [h]
  · simp [h, BitVec.getLsbD_of_ge st (8 + i) (by omega)]

/-- The fold over one byte is eight iterations of R69 on the state with the byte added to its low end. -/
theorem crcByte_eq_iterate (g st : Word) (b : Byte) : crcByte g st b = (crcShift g)^[8] (st ^^^ b.setWidth 32) := by
  have hhigh : (crcShift g)^[8] ((st >>> 8) <<< 8) = st >>> 8 := by
    rw [crcShift_iterate_of_low_zero, high_shiftRight]
    intro i hi
    simp [hi]
  calc crcByte g st b
      = (crcShift g)^[8] ((st >>> 8) <<< 8) ^^^ (crcShift g)^[8] ((b ^^^ st.extractLsb' 0 8).setWidth 32) := by
        rw [hhigh]; rfl
    _ = (crcShift g)^[8] (((st >>> 8) <<< 8 ^^^ (st.extractLsb' 0 8).setWidth 32) ^^^ b.setWidth 32) := by
        rw [← crcShift_iterate_xor, BitVec.setWidth_xor, BitVec.xor_comm (b.setWidth 32), BitVec.xor_assoc]
    _ = (crcShift g)^[8] (st ^^^ b.setWidth 32) := by rw [word_eq_high_xor_low]

theorem crcFold_append (g st : Word) (a b : Bytes) : crcFold g st (a ++ b) = crcFold g (crcFold g st a) b :=
  List.foldl_append

theorem crcFold_singleton (g st : Word) (b : Byte) :
    crcFold g st [b] = (st >>> 8) ^^^ crcTable g (b ^^^ st.extractLsb' 0 8) := rfl

/-- Settles O27: linearity of an iteration, and the fold of a list in two parts. -/
theorem crcTableAndFoldLaws : Obligations.CrcTableAndFoldLaws := by
  unfold Obligations.CrcTableAndFoldLaws
  refine fun g => ⟨crcTable_zero g, crcTable_0x80 g, crcTable_xor g, fun st a b => (crcFold_append g st a b).symm,
    fun st => ⟨?_, ?_⟩⟩
  · rw [crcFold_singleton, BitVec.xor_self, show (0#8 : Byte) = 0x00 from rfl, crcTable_zero]
    exact BitVec.xor_zero
  · rw [crcFold_singleton, BitVec.xor_comm (BitVec.extractLsb' 0 8 st), BitVec.xor_assoc, BitVec.xor_self,
      BitVec.xor_zero, crcTable_0x80]

/-! ### Bit 31 of the generator -/

section
variable {g : Word} (hg : g.getLsbD 31 = true)
include hg

/-- Bit 31 of an iteration is the bit shifted out. -/
theorem crcShift_getLsbD_31 (v : Word) : (crcShift g v).getLsbD 31 = v.getLsbD 0 := by
  have hout : (v >>> 1).getLsbD 31 = false := by
    rw [BitVec.getLsbD_ushiftRight]
    exact BitVec.getLsbD_of_ge v 32 (Nat.le_refl 32)
  cases h : v.getLsbD 0 with
  | true => rw [crcShift_of_bit h, BitVec.getLsbD_xor, hout, hg]; rfl
  | false => rw [crcShift_of_no_bit h, hout]

theorem crcShift_injective : Function.Injective (crcShift g) := by
  intro v w h
  have hlow : v.getLsbD 0 = w.getLsbD 0 := by
    rw [← crcShift_getLsbD_31 hg v, ← crcShift_getLsbD_31 hg w, h]
  have hhigh : v >>> 1 = w >>> 1 := by
    cases hv : v.getLsbD 0 with
    | true =>
      rw [crcShift_of_bit hv, crcShift_of_bit (hlow ▸ hv)] at h
      exact (BitVec.xor_left_inj _).mp h
    | false => rwa [crcShift_of_no_bit hv, crcShift_of_no_bit (hlow ▸ hv)] at h
  apply BitVec.eq_of_getLsbD_eq
  rintro (_ | i) hi
  · exact hlow
  · have hbit := congrArg (fun x => x.getLsbD i) hhigh
    simpa only [BitVec.getLsbD_ushiftRight, Nat.add_comm 1] using hbit

theorem crcByte_injective_state (b : Byte) : Function.Injective fun st => crcByte g st b := by
  intro st st' h
  simp only [crcByte_eq_iterate] at h
  exact (BitVec.xor_left_inj _).mp ((crcShift_injective hg).iterate 8 h)

theorem crcByte_injective_byte (st : Word) : Function.Injective (crcByte g st) := by
  intro x y h
  simp only [crcByte_eq_iterate] at h
  have hwide : x.setWidth 32 = y.setWidth 32 := (BitVec.xor_right_inj _).mp ((crcShift_injective hg).iterate 8 h)
  simpa using congrArg (BitVec.setWidth 8) hwide

theorem crcFold_injective (data : Bytes) : Function.Injective fun st => crcFold g st data := by
  induction data with
  | nil => exact fun _ _ h => h
  | cons b data ih => exact fun _ _ h => crcByte_injective_state hg b (ih h)

end

/-- Settles O28: the fold over one byte is injective in the byte, and every fold in its state. -/
theorem singleByteChangeIsDetected : Obligations.SingleByteChangeIsDetected := by
  unfold Obligations.SingleByteChangeIsDetected
  intro g st before after x y hg h
  rw [crcFold_append, crcFold_append] at h
  exact crcByte_injective_byte hg _ (crcFold_injective hg after h)

end Sys2Proof.Machine
end

section
/-! The KDF (spec/41_kdf.md R80): its output is cut from one stream of 20-byte blocks, the base digest and then the digest of each
counter; and the decimal counter of spec/00_scope.md R10. -/

namespace Sys2Proof.Machine

/-! ### The decimal counter (R10) -/

/-- The number whose value in decimal goes on from `a` with the digits given. -/
def decimalValue (a : Nat) (digits : Bytes) : Nat := digits.foldl (fun a d => 10 * a + (d.toNat - 0x30)) a

/-- The byte of a decimal digit. -/
def digitByte (d : Nat) : Byte := BitVec.ofNat 8 (0x30 + d)

theorem digitByte_toNat {d : Nat} (h : d < 10) : (digitByte d).toNat = 0x30 + d := by
  rw [digitByte, BitVec.toNat_ofNat, Nat.mod_eq_of_lt (by omega)]

theorem asciiDecFrom_succ (fuel n : Nat) (acc : Bytes) :
    asciiDecFrom (fuel + 1) n acc =
      if n < 10 then digitByte (n % 10) :: acc else asciiDecFrom fuel (n / 10) (digitByte (n % 10) :: acc) := rfl

theorem decimalValue_asciiDecFrom {fuel n : Nat} (acc : Bytes) (h : n < fuel) :
    decimalValue 0 (asciiDecFrom fuel n acc) = decimalValue n acc := by
  induction fuel generalizing n acc with
  | zero => omega
  | succ fuel ih =>
    have hcons (a : Nat) : decimalValue a (digitByte (n % 10) :: acc) = decimalValue (10 * a + n % 10) acc := by
      rw [decimalValue, List.foldl_cons, digitByte_toNat (by omega), Nat.add_sub_cancel_left]
      rfl
    rw [asciiDecFrom_succ]
    split
    · next hn => rw [hcons, Nat.mod_eq_of_lt hn, Nat.mul_zero, Nat.zero_add]
    · next hn => rw [ih _ (by omega), hcons, Nat.div_add_mod]

theorem mem_asciiDecFrom {fuel n : Nat} {acc : Bytes} {d : Byte} (hd : d ∈ asciiDecFrom fuel n acc) :
    d ∈ acc ∨ 0x30 ≤ d.toNat ∧ d.toNat ≤ 0x39 := by
  induction fuel generalizing n acc with
  | zero => exact .inl hd
  | succ fuel ih =>
    have hcons (h : d ∈ digitByte (n % 10) :: acc) : d ∈ acc ∨ 0x30 ≤ d.toNat ∧ d.toNat ≤ 0x39 := by
      rcases List.mem_cons.mp h with rfl | h
      · rw [digitByte_toNat (by omega)]; omega
      · exact .inl h
    rw [asciiDecFrom_succ] at hd
    split at hd
    · exact hcons hd
    · exact (ih hd).elim hcons .inr

/-- No leading zero: the first digit is that of the last quotient, which is not 0. -/
theorem head?_asciiDecFrom {fuel n : Nat} (acc : Bytes) (h : n < fuel) (hn : 0 < n) :
    (asciiDecFrom fuel n acc).head? ≠ some 0x30 := by
  induction fuel generalizing n acc with
  | zero => omega
  | succ fuel ih =>
    rw [asciiDecFrom_succ]
    split
    · intro he
      have hv := congrArg BitVec.toNat (Option.some.inj he)
      rw [digitByte_toNat (by omega)] at hv
      have : (0x30 : Byte).toNat = 0x30 := rfl
      omega
    · exact ih _ (by omega) (by omega)

/-! ### The stream of blocks (R80) -/

/-- The digest of counter `c`. -/
def kdfBlock (H : Bytes → Bytes) (D : Bytes) (c : Nat) : Bytes := H (asciiDec c ++ D)

/-- The base digest and the digests of the `m` counters from `c` on. -/
def kdfBlocks (H : Bytes → Bytes) (D : Bytes) (c m : Nat) : Bytes := (List.range' c m).flatMap (kdfBlock H D)

/-- The base digest and the digests of the first `m` counters. -/
def kdfStream (H : Bytes → Bytes) (D : Bytes) (m : Nat) : Bytes := D ++ kdfBlocks H D 1 m

theorem kdfBase_eq_iterate (H : Bytes → Bytes) (secret salt : Bytes) {iterations : Nat} (h : 1 ≤ iterations) :
    kdfBase H secret salt iterations = H^[iterations] (secret ++ salt) := by
  rw [kdfBase, ← Function.iterate_succ_apply' H, Nat.succ_eq_add_one, Nat.sub_add_cancel h]

theorem kdfBlocks_succ (H : Bytes → Bytes) (D : Bytes) (c m : Nat) :
    kdfBlocks H D c (m + 1) = kdfBlock H D c ++ kdfBlocks H D (c + 1) m := by
  rw [kdfBlocks, List.range'_succ, List.flatMap_cons]
  rfl

theorem kdfBlocks_add (H : Bytes → Bytes) (D : Bytes) (c m k : Nat) :
    kdfBlocks H D c (m + k) = kdfBlocks H D c m ++ kdfBlocks H D (c + m) k := by
  rw [kdfBlocks, ← List.range'_append_1, List.flatMap_append]
  rfl

theorem kdfStream_add (H : Bytes → Bytes) (D : Bytes) (m k : Nat) :
    kdfStream H D (m + k) = kdfStream H D m ++ kdfBlocks H D (m + 1) k := by
  rw [kdfStream, kdfBlocks_add, ← List.append_assoc, Nat.add_comm 1]
  rfl

section
variable {H : Bytes → Bytes} (hH : ∀ m, (H m).length = 20)
include hH

theorem kdfBlocks_length (D : Bytes) (c m : Nat) : (kdfBlocks H D c m).length = 20 * m := by
  induction m generalizing c with
  | zero => rfl
  | succ m ih => rw [kdfBlocks_succ, List.length_append, ih, kdfBlock, hH]; omega

theorem kdfStream_length {D : Bytes} (hD : D.length = 20) (m : Nat) : (kdfStream H D m).length = 20 * (m + 1) := by
  rw [kdfStream, List.length_append, hD, kdfBlocks_length hH]; omega

/-- The loop of R80 appends the blocks of the next counters until `n` bytes are there. -/
theorem kdfExpand_eq (D : Bytes) (n fuel c : Nat) (out : Bytes) (h : n ≤ out.length + fuel) :
    ∃ m, kdfExpand H D n fuel c out = out ++ kdfBlocks H D c m ∧ n ≤ out.length + 20 * m := by
  induction fuel generalizing c out with
  | zero => exact ⟨0, (List.append_nil out).symm, h⟩
  | succ fuel ih =>
    rw [kdfExpand]
    split
    · have hlen : (out ++ H (asciiDec c ++ D)).length = out.length + 20 := by rw [List.length_append, hH]
      obtain ⟨m, he, hm⟩ := ih (c + 1) (out ++ H (asciiDec c ++ D)) (by omega)
      refine ⟨m + 1, ?_, by omega⟩
      rw [he, kdfBlocks_succ, List.append_assoc]
      rfl
    · exact ⟨0, (List.append_nil out).symm, by omega⟩

/-- Any stream that is long enough gives the same first bytes. -/
theorem take_kdfStream {D : Bytes} (hD : D.length = 20) {n m m' : Nat} (h : n ≤ 20 * (m + 1)) (h' : n ≤ 20 * (m' + 1)) :
    (kdfStream H D m).take n = (kdfStream H D m').take n := by
  wlog hle : m ≤ m' generalizing m m'
  · exact (this h' h (by omega)).symm
  · obtain ⟨k, rfl⟩ := Nat.exists_eq_add_of_le hle
    rw [kdfStream_add, List.take_append_of_le_length (by rw [kdfStream_length hH hD]; exact h)]

/-- The output of R80 is the first `n` bytes of any stream that is long enough. -/
theorem kdf_eq_take (secret salt : Bytes) (iterations n m : Nat) (h : n ≤ 20 * (m + 1)) :
    kdf H secret salt iterations n = (kdfStream H (kdfBase H secret salt iterations) m).take n := by
  have hD : (kdfBase H secret salt iterations).length = 20 := hH _
  obtain ⟨m', he, hm'⟩ := kdfExpand_eq hH (kdfBase H secret salt iterations) n n 1 (kdfBase H secret salt iterations) (by omega)
  calc kdf H secret salt iterations n
      = (kdfExpand H (kdfBase H secret salt iterations) n n 1 (kdfBase H secret salt iterations)).take n := rfl
    _ = (kdfStream H (kdfBase H secret salt iterations) m').take n := by rw [he]; rfl
    _ = (kdfStream H (kdfBase H secret salt iterations) m).take n := take_kdfStream hH hD (by omega) h

theorem kdf_length (secret salt : Bytes) (iterations n : Nat) : (kdf H secret salt iterations n).length = n := by
  rw [kdf_eq_take hH secret salt iterations n n (by omega), List.length_take,
    kdfStream_length hH (D := kdfBase H secret salt iterations) (hH _)]
  omega

/-- From the block of counter `j` on, the output is that block and the ones after it, cut to `n`. -/
theorem drop_kdf (secret salt : Bytes) (iterations n : Nat) {j : Nat} (hj : 1 ≤ j) :
    ∃ rest, (kdf H secret salt iterations n).drop (20 * j) =
      (kdfBlock H (kdfBase H secret salt iterations) j ++ rest).take (n - 20 * j) := by
  obtain ⟨i, rfl⟩ := Nat.exists_eq_add_of_le' hj
  have hlen : (kdfStream H (kdfBase H secret salt iterations) i).length = 20 * (i + 1) := kdfStream_length hH (hH _) i
  refine ⟨kdfBlocks H (kdfBase H secret salt iterations) (i + 2) n, ?_⟩
  rw [kdf_eq_take hH secret salt iterations n (i + (n + 1)) (by omega), List.drop_take, kdfStream_add, ← hlen,
    List.drop_left, kdfBlocks_succ]

end

/-- Settles O30: both outputs are cut from one stream. -/
theorem kdfLengthAndPrefix : Obligations.KdfLengthAndPrefix := by
  unfold Obligations.KdfLengthAndPrefix
  intro H hH secret salt iterations n k _ _
  refine ⟨kdf_length hH secret salt iterations n, ?_⟩
  rw [kdf_eq_take hH secret salt iterations n (n + k) (by omega),
    kdf_eq_take hH secret salt iterations (n + k) (n + k) (by omega), List.take_take, Nat.min_eq_left (by omega)]

/-- Settles O31: the counter's digits by induction on the quotients, the blocks from the stream. -/
theorem kdfShortOutputs : Obligations.KdfShortOutputs := by
  unfold Obligations.KdfShortOutputs
  refine ⟨fun j hj => ⟨decimalValue_asciiDecFrom [] (Nat.lt_succ_self j), fun d hd => ?_,
    head?_asciiDecFrom [] (Nat.lt_succ_self j) hj⟩, ?_⟩
  · exact (mem_asciiDecFrom hd).resolve_left (List.not_mem_nil)
  intro H hH secret salt iterations n hit hn D k
  have hbase : kdfBase H secret salt iterations = D := kdfBase_eq_iterate H secret salt hit
  have hD : D.length = 20 := hbase ▸ hH _
  have htake (m : Nat) (h : n ≤ 20 * (m + 1)) : k = (kdfStream H D m).take n :=
    hbase ▸ kdf_eq_take hH secret salt iterations n m h
  have hdrop {j : Nat} (hj : 1 ≤ j) : ∃ rest, k.drop (20 * j) = (kdfBlock H D j ++ rest).take (n - 20 * j) :=
    hbase ▸ drop_kdf hH secret salt iterations n hj
  have hblock (j : Nat) : (kdfBlock H D j).length = 20 := hH _
  have hone : kdfStream H D 1 = D ++ H (0x31 :: D) := by rw [kdfStream, kdfBlocks_succ]; exact congrArg _ (List.append_nil _)
  have htwo : kdfStream H D 2 = D ++ H (0x31 :: D) ++ H (0x32 :: D) := by
    rw [kdfStream_add H D 1 1, hone, kdfBlocks_succ]; exact congrArg _ (List.append_nil _)
  refine ⟨fun h => ?_, fun h1 h2 => ?_, fun h1 h2 => ?_, ?_, fun j hj h => ?_, fun j hj h1 h2 => ?_⟩
  · rw [htake 0 (by omega), kdfStream, List.take_append_of_le_length (by omega)]
  · rw [htake 1 (by omega), hone, List.take_append, hD, List.take_of_length_le (by omega)]
  · rw [htake 2 (by omega), htwo, List.take_append, List.length_append, hD, hH,
      List.take_of_length_le (by rw [List.length_append, hD, hH]; omega)]
  · rw [htake n (by omega), kdfStream, List.take_take, List.take_append_of_le_length (by omega),
      Nat.min_comm, ← hD, ← List.take_eq_take_min]
  · obtain ⟨rest, hrest⟩ := hdrop hj
    rw [hrest, List.take_take, Nat.min_eq_left (by omega), ← hblock j, List.take_left]
    rfl
  · obtain ⟨rest, hrest⟩ := hdrop hj
    rw [hrest, List.take_append_of_le_length (by rw [hblock]; omega)]
    rfl

end Sys2Proof.Machine
end

section
/-! Padding and CBC (spec/42_cipher.md R87 to R92). -/

namespace Sys2Proof.Machine

/-! ### Padding (R87 to R89) -/

@[simp] theorem padBytes_length (p : Bytes) : (padBytes p).length = p.length + padLen p.length := by simp [padBytes]

theorem byteAt_rep {n i : Nat} (h : i < n) (v : Byte) : byteAt (rep n v) i = v := by
  simp [byteAt, rep, h]

theorem padByte_padBytes (p : Bytes) : padByte (padBytes p) = padLen p.length := by
  obtain ⟨hpos, hle⟩ := padLen_bounds p.length
  rw [padByte, padBytes, byteAt_append, if_neg (by simp; omega), byteAt_rep (by simp; omega), BitVec.toNat_ofNat,
    Nat.mod_eq_of_lt (by omega)]

@[simp] theorem unpadL_padBytes (p : Bytes) : unpadL (padBytes p) = p := by
  rw [unpadL, padByte_padBytes, padBytes_length, Nat.add_sub_cancel_right, padBytes, List.take_left]

theorem padValid_padBytes (p : Bytes) : PadValid (padBytes p) := by
  have halign := padLen_aligns p.length
  obtain ⟨hpos, hle⟩ := padLen_bounds p.length
  rw [PadValid, padByte_padBytes, padBytes_length, Nat.add_sub_cancel_right]
  exact ⟨by omega, halign, hpos, hle, by omega, List.drop_left⟩

theorem unpadL_length (d : Bytes) : (unpadL d).length = d.length - padByte d := by
  rw [unpadL, List.length_take]; omega

/-- The number of bytes that valid padding adds is the pad length of what is left. -/
theorem padLen_of_padValid {d : Bytes} (h : PadValid d) : padLen (d.length - padByte d) = padByte d := by
  obtain ⟨-, halign, hpos, hle, hlen, -⟩ := h
  unfold padLen; omega

theorem padBytes_unpadL {d : Bytes} (h : PadValid d) : padBytes (unpadL d) = d := by
  have hpad := padLen_of_padValid h
  obtain ⟨-, -, -, -, -, htail⟩ := h
  rw [padBytes, unpadL_length, hpad, ← htail, unpadL, List.take_append_drop]

theorem unpadS_eq_some_iff (d u : Bytes) : unpadS d = some u ↔ PadValid d ∧ unpadL d = u := by
  unfold unpadS
  split
  · next h => exact ⟨fun hu => ⟨h, Option.some.inj hu⟩, fun ⟨_, hu⟩ => congrArg some hu⟩
  · next h => exact ⟨nofun, fun ⟨hd, _⟩ => absurd hd h⟩

/-- Settles O32: the pad byte of a padded string is its pad length. -/
theorem padThenUnpadIsIdentity : Obligations.PadThenUnpadIsIdentity := by
  unfold Obligations.PadThenUnpadIsIdentity
  intro p
  obtain ⟨hpos, hle⟩ := padLen_bounds p.length
  refine ⟨?_, ?_, ?_, unpadL_padBytes p, (unpadS_eq_some_iff _ _).mpr ⟨padValid_padBytes p, unpadL_padBytes p⟩⟩
  · rw [padBytes_length, padLen_aligns]
  · rw [padBytes_length]; omega
  · rw [padBytes_length]; omega

/-- Settles O33: valid padding is the padding of what is left, and padding is always valid. -/
theorem strictPaddingIsExactlyPad : Obligations.StrictPaddingIsExactlyPad := by
  unfold Obligations.StrictPaddingIsExactlyPad
  intro d u
  rw [unpadS_eq_some_iff]
  constructor
  · rintro ⟨hvalid, rfl⟩
    exact (padBytes_unpadL hvalid).symm
  · rintro rfl
    exact ⟨padValid_padBytes u, unpadL_padBytes u⟩

/-! ### Blocks -/

/-- A key of AES-128, AES-192 or AES-256 (45_primitives.md R104). -/
def IsAesKey (k : Bytes) : Prop := k.length = 16 ∨ k.length = 24 ∨ k.length = 32

theorem roundKeysAreBlocks_of_isAesKey {k : Bytes} (hk : IsAesKey k) : RoundKeysAreBlocks (keyExpand k) (aesNr k) := by
  have hnk : 0 < aesNk k := by unfold IsAesKey at hk; unfold aesNk; omega
  exact fun _ => roundKey_length (keyExpand_isWords hnk)

theorem aesEnc_length {k : Bytes} (hk : IsAesKey k) (b : Bytes) : (aesEnc k b).length = 16 :=
  addRoundKey_length (roundKeysAreBlocks_of_isAesKey hk _ (Nat.le_refl _)) (subShift_length _)

theorem aesDec_length {k : Bytes} (hk : IsAesKey k) (b : Bytes) : (aesDec k b).length = 16 :=
  addRoundKey_length (roundKeysAreBlocks_of_isAesKey hk _ (Nat.zero_le _)) (invSubShift_length _)

theorem chunks_append {n j k : Nat} {a b : Bytes} (h : a.length = n * j) :
    chunks n (j + k) (a ++ b) = chunks n j a ++ chunks n k b := by
  induction j generalizing a with
  | zero => simp_all [chunks]
  | succ j ih =>
    rw [Nat.mul_succ] at h
    rw [Nat.add_right_comm, chunks, List.take_append_of_le_length (by omega), List.drop_append_of_le_length (by omega),
      ih (by rw [List.length_drop]; omega)]
    rfl

/-- The blocks of a string of whole blocks. -/
def blocksOf (p : Bytes) : List Bytes := chunks 16 (p.length / 16) p

theorem blocksOf_length (p : Bytes) : (blocksOf p).length = p.length / 16 := chunks_length _ _ _

theorem length_of_mem_blocksOf {p x : Bytes} (hx : x ∈ blocksOf p) : x.length = 16 :=
  length_of_mem_chunks (Nat.mul_div_le p.length 16) hx

theorem flatten_blocksOf {p : Bytes} (h : p.length % 16 = 0) : (blocksOf p).flatten = p :=
  flatten_chunks (by omega)

theorem blocksOf_append {p : Bytes} (hp : p.length % 16 = 0) (q : Bytes) : blocksOf (p ++ q) = blocksOf p ++ blocksOf q := by
  rw [blocksOf, List.length_append, show (p.length + q.length) / 16 = p.length / 16 + q.length / 16 by omega]
  exact chunks_append (by omega)

@[simp] theorem blocksOf_nil : blocksOf [] = [] := by simp [blocksOf, chunks]

theorem blocksOf_cons {x : Bytes} (hx : x.length = 16) (b : Bytes) : blocksOf (x ++ b) = x :: blocksOf b := by
  rw [blocksOf, List.length_append, hx, show (16 + b.length) / 16 = b.length / 16 + 1 by omega, chunks_cons hx]
  rfl

/-- Past the first block stand the blocks after it. -/
theorem drop_block_append {x : Bytes} (hx : x.length = 16) (j : Nat) (b : Bytes) :
    (x ++ b).drop (16 * (j + 1)) = b.drop (16 * j) := by
  rw [Nat.mul_succ, Nat.add_comm, ← List.drop_drop, List.drop_left' hx]

theorem cbcEnc_eq (k iv p : Bytes) : cbcEnc k iv p = cbcEncBlocks k iv (blocksOf p) := rfl

theorem cbcDec_eq (k iv c : Bytes) : cbcDec k iv c = cbcDecBlocks k iv (blocksOf c) := rfl

/-! ### CBC (R91, R92) -/

section
variable {k : Bytes} (hk : IsAesKey k)
include hk

theorem cbcEncBlocks_length (c : Bytes) (ps : List Bytes) : (cbcEncBlocks k c ps).length = 16 * ps.length := by
  induction ps generalizing c with
  | nil => rfl
  | cons p ps ih => simp only [cbcEncBlocks, List.length_append, List.length_cons, ih, aesEnc_length hk]; omega

theorem xorBytes_aesDec_length {c : Bytes} (hc : c.length = 16) (x : Bytes) : (xorBytes (aesDec k x) c).length = 16 := by
  rw [xorBytes_length, aesDec_length hk, hc, min_self]

theorem cbcDecBlocks_length {c : Bytes} {xs : List Bytes} (hc : c.length = 16) (hx : ∀ x ∈ xs, x.length = 16) :
    (cbcDecBlocks k c xs).length = 16 * xs.length := by
  induction xs generalizing c with
  | nil => rfl
  | cons x xs ih =>
    obtain ⟨hhead, htail⟩ := List.forall_mem_cons.mp hx
    rw [cbcDecBlocks, List.length_append, xorBytes_aesDec_length hk hc, ih hhead htail, List.length_cons]
    omega

/-- Decryption of each ciphertext block gives back the plaintext block under the same chaining value. -/
theorem cbcDecBlocks_cbcEncBlocks {c : Bytes} {ps : List Bytes} (hc : c.length = 16) (hp : ∀ p ∈ ps, p.length = 16) :
    cbcDecBlocks k c (blocksOf (cbcEncBlocks k c ps)) = ps.flatten := by
  induction ps generalizing c with
  | nil => simp [cbcEncBlocks, cbcDecBlocks]
  | cons p ps ih =>
    obtain ⟨hhead, htail⟩ := List.forall_mem_cons.mp hp
    have hxor : (xorBytes p c).length = 16 := by rw [xorBytes_length, hhead, hc, min_self]
    rw [cbcEncBlocks, blocksOf_cons (aesEnc_length hk _), cbcDecBlocks, (aesInverts k _ hk hxor).1, xorBytes_cancel (by omega),
      ih (aesEnc_length hk _) htail, List.flatten_cons]

/-- Encryption of each decrypted block gives back the ciphertext block under the same chaining value. -/
theorem cbcEncBlocks_cbcDecBlocks {c : Bytes} {xs : List Bytes} (hc : c.length = 16) (hx : ∀ x ∈ xs, x.length = 16) :
    cbcEncBlocks k c (blocksOf (cbcDecBlocks k c xs)) = xs.flatten := by
  induction xs generalizing c with
  | nil => simp [cbcEncBlocks, cbcDecBlocks]
  | cons x xs ih =>
    obtain ⟨hhead, htail⟩ := List.forall_mem_cons.mp hx
    have hcancel : xorBytes (xorBytes (aesDec k x) c) c = aesDec k x :=
      xorBytes_cancel (by rw [aesDec_length hk, hc])
    rw [cbcDecBlocks, blocksOf_cons (xorBytes_aesDec_length hk hc x), cbcEncBlocks, hcancel, (aesInverts k x hk hhead).2,
      ih hhead htail, List.flatten_cons]

theorem cbcEnc_length {p : Bytes} (hp : p.length % 16 = 0) (iv : Bytes) : (cbcEnc k iv p).length = p.length := by
  rw [cbcEnc_eq, cbcEncBlocks_length hk, blocksOf_length]; omega

theorem cbcDec_length {iv c : Bytes} (hiv : iv.length = 16) (hc : c.length % 16 = 0) : (cbcDec k iv c).length = c.length := by
  rw [cbcDec_eq, cbcDecBlocks_length hk hiv fun _ => length_of_mem_blocksOf, blocksOf_length]; omega

theorem cbcDec_cbcEnc {iv p : Bytes} (hiv : iv.length = 16) (hp : p.length % 16 = 0) : cbcDec k iv (cbcEnc k iv p) = p :=
  (cbcDecBlocks_cbcEncBlocks hk hiv fun _ => length_of_mem_blocksOf).trans (flatten_blocksOf hp)

theorem cbcEnc_cbcDec {iv c : Bytes} (hiv : iv.length = 16) (hc : c.length % 16 = 0) : cbcEnc k iv (cbcDec k iv c) = c :=
  (cbcEncBlocks_cbcDecBlocks hk hiv fun _ => length_of_mem_blocksOf).trans (flatten_blocksOf hc)

/-- The chain goes on from the last ciphertext block, or from `c` when there is none. -/
theorem cbcEncBlocks_append {c : Bytes} (hc : c.length = 16) (ps qs : List Bytes) :
    cbcEncBlocks k c (ps ++ qs) =
      cbcEncBlocks k c ps ++ cbcEncBlocks k ((c ++ cbcEncBlocks k c ps).drop (16 * ps.length)) qs := by
  induction ps generalizing c with
  | nil => simp [cbcEncBlocks]
  | cons p ps ih =>
    simp only [List.cons_append, cbcEncBlocks, ih (aesEnc_length hk _), List.append_assoc, List.length_cons,
      drop_block_append hc]

/-- A decrypted block, from its ciphertext block and the one before it. -/
theorem cbcDecBlocks_block {c : Bytes} {xs : List Bytes} {j : Nat} (hc : c.length = 16) (hx : ∀ x ∈ xs, x.length = 16)
    (hj : j < xs.length) :
    ((cbcDecBlocks k c xs).drop (16 * j)).take 16 =
      xorBytes (aesDec k ((xs.flatten.drop (16 * j)).take 16)) (((c ++ xs.flatten).drop (16 * j)).take 16) := by
  induction xs generalizing c j with
  | nil => exact absurd hj (Nat.not_lt_zero j)
  | cons x xs ih =>
    obtain ⟨hhead, htail⟩ := List.forall_mem_cons.mp hx
    have hxor := xorBytes_aesDec_length hk hc x
    rw [cbcDecBlocks, List.flatten_cons]
    cases j with
    | zero =>
      rw [Nat.mul_zero, List.drop_zero, List.drop_zero, List.drop_zero, List.take_left' hxor, List.take_left' hhead,
        List.take_left' hc]
    | succ j =>
      rw [drop_block_append hxor, drop_block_append hhead, drop_block_append hc]
      exact ih hhead htail (Nat.lt_of_succ_lt_succ hj)

end

/-- Settles O35: block by block, AES and XOR undo each other. -/
theorem cbcInverts : Obligations.CbcInverts := by
  unfold Obligations.CbcInverts
  exact fun k iv p hk hiv hp => ⟨cbcEnc_length hk hp iv, cbcDec_cbcEnc hk hiv hp, cbcEnc_cbcDec hk hiv hp⟩

/-- Settles O36: the blocks of both strings follow each other, and the chaining value is the last ciphertext block. -/
theorem cbcChainsThroughTheLastBlock : Obligations.CbcChainsThroughTheLastBlock := by
  unfold Obligations.CbcChainsThroughTheLastBlock
  intro k iv p q hk hiv hp hpos _
  have hlast : (iv ++ cbcEnc k iv p).drop (16 * (blocksOf p).length) = (cbcEnc k iv p).drop (p.length - 16) := by
    rw [blocksOf_length, show p.length / 16 = (p.length - 16) / 16 + 1 by omega, drop_block_append hiv]
    congr 1; omega
  rw [cbcEnc_eq k iv (p ++ q), blocksOf_append hp, cbcEncBlocks_append hk hiv, ← cbcEnc_eq k iv p, hlast, ← cbcEnc_eq]

/-- Settles O37: by induction on the ciphertext blocks. -/
theorem cbcDecryptsBlockByBlock : Obligations.CbcDecryptsBlockByBlock := by
  unfold Obligations.CbcDecryptsBlockByBlock
  intro k iv c j hk hiv hc hj
  have hblock := cbcDecBlocks_block hk hiv (fun _ => length_of_mem_blocksOf) (xs := blocksOf c) (j := j)
    (by rw [blocksOf_length]; omega)
  rwa [flatten_blocksOf hc] at hblock

end Sys2Proof.Machine
end

section
/-! STATUS (spec/10_state.md R25; spec/60_exceptions.md R117, R124): the bits of the word and its W1C write. -/

namespace Sys2Proof.Machine

/-! ### The flags, one bit each -/

theorem getLsbD_append_ofBool_zero {n : Nat} (x : BitVec n) (b : Bool) : (x ++ BitVec.ofBool b).getLsbD 0 = b := by
  rw [BitVec.getLsbD_append]
  exact BitVec.getLsbD_ofBool b 0

theorem getLsbD_append_ofBool_succ {n : Nat} (x : BitVec n) (b : Bool) (i : Nat) :
    (x ++ BitVec.ofBool b).getLsbD (i + 1) = x.getLsbD i := by
  simp [BitVec.getLsbD_append]

/-- Above the six flags: two zeros, ERRCODE, zeros. -/
def statusHigh (s : State) : BitVec 26 := 0#20 ++ errBits s.errCode ++ 0#2

theorem statusWord_getLsbD (s : State) (i : Nat) :
    (statusWord s).getLsbD i =
      match i with
      | 0 => busyBit s
      | 1 => s.done
      | 2 => errBit s
      | 3 => s.chkWarn
      | 4 => s.overrun
      | 5 => s.accessErr
      | i + 6 => (statusHigh s).getLsbD i := by
  rw [statusWord]
  match i with
  | 0 => rw [getLsbD_append_ofBool_zero]
  | 1 | 2 | 3 | 4 | 5 => simp only [getLsbD_append_ofBool_succ, getLsbD_append_ofBool_zero]
  | i + 6 => simp only [getLsbD_append_ofBool_succ]; rfl

theorem busyBit_eq_true_iff (s : State) : busyBit s = true ↔ s.eng = .busy := by simp [busyBit]

theorem errBit_eq_true_iff (s : State) : errBit s = true ↔ s.errCode ≠ .none := by
  unfold errBit
  cases s.errCode <;> decide

/-! ### ERRCODE and the zeros -/

theorem statusHigh_getLsbD (s : State) (i : Nat) :
    (statusHigh s).getLsbD i = (decide (2 ≤ i) && (errBits s.errCode).getLsbD (i - 2)) := by
  rw [statusHigh, BitVec.getLsbD_append, BitVec.getLsbD_append]
  by_cases h2 : i < 2
  · simp [h2]
  · by_cases h4 : i - 2 < 4
    · simp [h2, h4, Nat.le_of_not_lt h2]
    · simp [h2, h4, BitVec.getLsbD_of_ge (errBits s.errCode) (i - 2) (Nat.le_of_not_lt h4)]

theorem extract_statusWord (s : State) (k n : Nat) :
    (statusWord s).extractLsb' (k + 6) n = (statusHigh s).extractLsb' k n := by
  apply BitVec.eq_of_getLsbD_eq
  intro i hi
  rw [BitVec.getLsbD_extractLsb', BitVec.getLsbD_extractLsb', Nat.add_right_comm, statusWord_getLsbD]

theorem statusWord_low_zeros (s : State) : (statusWord s).extractLsb' 6 2 = 0 := by
  rw [extract_statusWord s 0]
  apply BitVec.eq_of_getLsbD_eq
  intro i hi
  simp [statusHigh_getLsbD, show ¬2 ≤ i by omega]

theorem statusWord_errCode (s : State) : (statusWord s).extractLsb' 8 4 = errBits s.errCode := by
  rw [extract_statusWord s 2]
  apply BitVec.eq_of_getLsbD_eq
  intro i hi
  simp [statusHigh_getLsbD, hi]

theorem statusWord_high_zeros (s : State) : (statusWord s).extractLsb' 12 20 = 0 := by
  rw [extract_statusWord s 6]
  apply BitVec.eq_of_getLsbD_eq
  intro i hi
  simp [statusHigh_getLsbD, BitVec.getLsbD_of_ge (errBits s.errCode) (6 + i - 2) (by omega)]

/-- The codes of the model are those of the table of R117. -/
theorem errBits_mem_errorCodes (e : ErrCode) : (e, errBits e) ∈ errorCodes := by cases e <;> decide

theorem statusWord_mem_errorCodes (s : State) : (s.errCode, (statusWord s).extractLsb' 8 4) ∈ errorCodes := by
  rw [statusWord_errCode]
  exact errBits_mem_errorCodes s.errCode

theorem ctrlWord_getLsbD_zero (s : State) : (ctrlWord s).getLsbD 0 = s.irqEn := by
  rw [ctrlWord, BitVec.getLsbD_setWidth, BitVec.getLsbD_ofBool]
  simp

/-- Settles O47: the word bit by bit, and the numbers of R117. -/
theorem statusFieldsAndIrq : Obligations.StatusFieldsAndIrq := by
  unfold Obligations.StatusFieldsAndIrq
  intro s
  refine ⟨?_, statusWord_getLsbD s 1, ?_, statusWord_getLsbD s 3, statusWord_getLsbD s 4, statusWord_getLsbD s 5,
    statusWord_low_zeros s, statusWord_mem_errorCodes s, statusWord_high_zeros s, ?_⟩
  · rw [statusWord_getLsbD]
    exact busyBit_eq_true_iff s
  · rw [statusWord_getLsbD]
    exact errBit_eq_true_iff s
  · rw [statusWord_getLsbD, ctrlWord_getLsbD_zero]
    rfl

/-! ### The W1C write (R25) -/

/-- The W1C bits are 1, 3, 4 and 5. -/
theorem w1cMask_getLsbD : ∀ i < 32, (0x0000003A : Word).getLsbD i = decide (i ∈ [1, 3, 4, 5]) := by decide

theorem statusWord_writeStatus (s : State) (v : Word) :
    statusWord (s.writeStatus v) = statusWord s &&& ~~~(v &&& 0x0000003A) := by
  apply BitVec.eq_of_getLsbD_eq
  intro i hi
  rw [BitVec.getLsbD_and, BitVec.getLsbD_not, BitVec.getLsbD_and, w1cMask_getLsbD i hi, statusWord_getLsbD, statusWord_getLsbD]
  match i with
  | 0 | 2 => simp; rfl
  | 1 | 3 | 4 | 5 => simp [State.writeStatus]
  | i + 6 => simp [hi]; rfl

end Sys2Proof.Machine
end

section
/-! What a command may write (spec/30_encoding.md R60; spec/20_memory.md R51; spec/60_exceptions.md R118 to R122), for all commands
at once: each operation of a body keeps the frame its command's columns give it. -/

namespace Sys2Proof.Machine

/-! ### When the operands of each command are in order -/

/-- The source is in range, and so is the destination, without partial overlap (20_memory.md R49, R50). -/
def RegionsOk (s : State) (n : Nat) : Prop :=
  InRange s (srcRegion s.snap.regs) ∧ InRange s (dstRegion s.snap.regs n) ∧
    ¬PartialOverlap (dstRegion s.snap.regs n) (srcRegion s.snap.regs)

/-- What each command's rule asks of its operands (40_checksum.md to 43_container.md). -/
def OperandsOk (i : Instr) (s : State) : Prop :=
  let o := s.snap.regs
  match i with
  | .crcCompute | .crcUpdate => InRange s (srcRegion o)
  | .crcVerify => 4 ≤ o.srcLen.toNat ∧ InRange s (srcRegion o)
  | .crcAppend => InRange s (trailerRegion o)
  | .kdfBuf salt =>
    o.kdfIter ≠ 0 ∧ o.outLen ≠ 0 ∧ RegionsOk s o.outLen.toNat ∧
      (salt = .auxRegion → InRange s (auxRegion o) ∧ ¬PartialOverlap (dstRegion o o.outLen.toNat) (auxRegion o))
  | .kdfKey salt =>
    KeyLenOk o ∧ o.kdfIter ≠ 0 ∧ InRange s (srcRegion o) ∧ (salt = .auxRegion → InRange s (auxRegion o))
  | .cbcEnc | .cbcDec => KeyLenOk o ∧ o.srcLen.toNat % 16 = 0 ∧ RegionsOk s o.srcLen.toNat
  | .pad => RegionsOk s (o.srcLen.toNat + padLen o.srcLen.toNat)
  | .unpad _ => 0 < o.srcLen.toNat ∧ RegionsOk s o.srcLen.toNat
  | .decode _ =>
    KeyLenOk o ∧ 20 < o.srcLen.toNat ∧ (o.srcLen.toNat - 20) % 16 = 0 ∧ RegionsOk s (o.srcLen.toNat - 20)
  | .encode => KeyLenOk o ∧ RegionsOk s (containerLen o.srcLen.toNat)

/-- The range and overlap checks of the table, for the sources and the destination. -/
theorem regions_iff (i : Instr) (s : State) :
    (∀ r ∈ usedRegions i s.snap.regs, InRange s r) ∧ overlapError i s.snap.regs = false ↔
      (∀ r ∈ sourceRegions i s.snap.regs, InRange s r) ∧
      ∀ d ∈ destRegion i s.snap.regs, InRange s d ∧ ∀ r ∈ sourceRegions i s.snap.regs, ¬PartialOverlap d r := by
  unfold usedRegions overlapError
  cases destRegion i s.snap.regs with
  | none => simp
  | some d =>
    simp only [List.mem_append, or_imp, forall_and, Option.toList_some, List.any_cons, List.any_nil, Bool.or_false,
      List.any_eq_false, decide_eq_true_eq, List.mem_singleton, forall_eq, Option.mem_some_iff, forall_eq', and_assoc]

theorem operandError_eq_none_iff_operandsOk (i : Instr) (s : State) : operandError i s = .none ↔ OperandsOk i s := by
  rw [operandError_eq_none_iff, regions_iff]
  cases i with
  | crcAppend =>
    refine ⟨fun ⟨_, _, _, _, h⟩ => (h _ rfl).1, fun h => ⟨nofun, rfl, rfl, ?_, ?_⟩⟩
    · exact List.forall_mem_singleton.mpr (Nat.le_of_add_right_le h)
    · rintro _ ⟨⟩
      exact ⟨h, List.forall_mem_singleton.mpr (not_partialOverlap_trailerRegion s.snap.regs)⟩
  | kdfBuf salt =>
    cases salt with
    | auxRegion =>
      simp only [needsKeyLen, paramError, lengthError, sourceRegions, usesAux, destRegion, OperandsOk, RegionsOk,
        Bool.false_eq_true, IsEmpty.forall_iff, BitVec.ofNat_eq_ofNat, Bool.or_eq_false_iff, beq_eq_false_iff_ne, ne_eq,
        ↓reduceIte, List.mem_cons, List.not_mem_nil, or_false, ge_iff_le, forall_eq_or_imp, forall_eq, Option.mem_def,
        Option.some.injEq, not_and, Decidable.not_not, forall_eq', true_and, forall_const]
      exact ⟨fun ⟨⟨hiter, hlen⟩, ⟨hsrc, haux⟩, hdst, hos, hoa⟩ => ⟨hiter, hlen, ⟨hsrc, hdst, hos⟩, haux, hoa⟩,
        fun ⟨hiter, hlen, ⟨hsrc, hdst, hos⟩, haux, hoa⟩ => ⟨⟨hiter, hlen⟩, ⟨hsrc, haux⟩, hdst, hos, hoa⟩⟩
    | fixedSalt =>
      simp [needsKeyLen, paramError, lengthError, sourceRegions, usesAux, destRegion, OperandsOk, RegionsOk, and_assoc]
  | kdfKey salt =>
    cases salt <;> simp [needsKeyLen, paramError, lengthError, sourceRegions, usesAux, destRegion, OperandsOk]
  | _ =>
    simp [needsKeyLen, paramError, lengthError, sourceRegions, usesAux, destRegion, OperandsOk, RegionsOk,
      Nat.pos_iff_ne_zero, and_assoc]

theorem exec_of_operandsOk {i : Instr} {s : State} (h : OperandsOk i s) : exec i s = .next (commandBody i s) :=
  exec_of_operandsInOrder ((operandError_eq_none_iff_operandsOk i s).mpr h)

/-! ### What the operations of a body keep -/

theorem untouched_refl (s : State) : Untouched s s := ⟨rfl, rfl, rfl, rfl, rfl, rfl, rfl, rfl, rfl, rfl⟩

/-- `u` is `s` with writes to what the columns of R60 and the destination region let command `i` write. -/
structure BodyWrites (i : Instr) (s u : State) : Prop where
  untouched : Untouched s u
  operands : OperandsKept s.regs u.regs
  crc : writesCrcValue i = false → u.regs.crcValue = s.regs.crcValue
  key : writesKey i = false → u.regs.key = s.regs.key
  iv : writesIv i = false → u.regs.iv = s.regs.iv
  draws : writesIv i = false → u.ivDraws = s.ivDraws
  warn : writesChkWarn i = false → u.chkWarn = s.chkWarn
  buf : u.buf = s.buf ∨ ∃ r v, destRegion i s.snap.regs = some r ∧ v.length ≤ r.len ∧ u.buf = bufWrite s.buf r.addr v

namespace BodyWrites

variable {i : Instr} {s u : State}

theorem refl (i : Instr) (s : State) : BodyWrites i s s where
  untouched := untouched_refl s
  operands := ⟨_, _, _, rfl⟩
  crc _ := rfl
  key _ := rfl
  iv _ := rfl
  draws _ := rfl
  warn _ := rfl
  buf := .inl rfl

theorem setCrc (h : BodyWrites i s u) (hi : writesCrcValue i = true) (v : Word) : BodyWrites i s (u.setCrc v) where
  untouched := h.untouched
  operands := by obtain ⟨c, k, w, hr⟩ := h.operands; exact ⟨v, k, w, by rw [State.setCrc_regs, hr]⟩
  crc hn := absurd (hi.symm.trans hn) nofun
  key := h.key
  iv := h.iv
  draws := h.draws
  warn := h.warn
  buf := h.buf

theorem setKey (h : BodyWrites i s u) (hi : writesKey i = true) (k : Vector Word 8) : BodyWrites i s (u.setKey k) where
  untouched := h.untouched
  operands := by obtain ⟨c, _, w, hr⟩ := h.operands; exact ⟨c, k, w, by rw [State.setKey_regs, hr]⟩
  crc := h.crc
  key hn := absurd (hi.symm.trans hn) nofun
  iv := h.iv
  draws := h.draws
  warn := h.warn
  buf := h.buf

theorem setIv (h : BodyWrites i s u) (hi : writesIv i = true) (v : Vector Word 4) : BodyWrites i s (u.setIv v) where
  untouched := h.untouched
  operands := by obtain ⟨c, k, _, hr⟩ := h.operands; exact ⟨c, k, v, by rw [State.setIv_regs, hr]⟩
  crc := h.crc
  key := h.key
  iv hn := absurd (hi.symm.trans hn) nofun
  draws := h.draws
  warn := h.warn
  buf := h.buf

theorem drawTaken (h : BodyWrites i s u) (hi : writesIv i = true) : BodyWrites i s u.drawTaken :=
  { h with draws := fun hn => absurd (hi.symm.trans hn) nofun }

theorem warnIf (h : BodyWrites i s u) (hi : writesChkWarn i = true) (m : Bool) : BodyWrites i s (u.warnIf m) :=
  { h with warn := fun hn => absurd (hi.symm.trans hn) nofun }

theorem memWrite (h : BodyWrites i s u) (hb : u.buf = s.buf) {r : Region} (hr : destRegion i s.snap.regs = some r) {v : Bytes}
    (hv : v.length ≤ r.len) : BodyWrites i s (u.memWrite r.addr v) :=
  { h with buf := .inr ⟨r, v, hr, hv, by rw [State.memWrite_buf, hb]⟩ }

theorem memForget (h : BodyWrites i s u) (hb : u.buf = s.buf) {r : Region} (hr : destRegion i s.snap.regs = some r) :
    BodyWrites i s (u.memForget r) :=
  { h with
    buf := .inr ⟨r, _, hr, Nat.le_of_eq (unspecifiedBytes_length u.unspecCount r.len), by rw [State.memForget_buf, hb]⟩ }

end BodyWrites

/-! ### The lengths of what a command stores -/

theorem isAesKey_keyBytes {o : OperandRegs} (h : KeyLenOk o) : IsAesKey (keyBytes o) := by
  unfold IsAesKey
  rcases h with h | h | h <;> simp [keyBytes, h]

theorem kdfHash_length (m : Bytes) : (kdfHash m).length = 20 := rfl

theorem sourceBytes_length (s : State) : (memRead s (srcRegion s.snap.regs)).length = s.snap.regs.srcLen.toNat :=
  memRead_length s _

theorem decodePlain_eq (s : State) :
    decodePlain s = cbcDec (keyBytes s.snap.regs) ((memRead s (srcRegion s.snap.regs)).take 16)
      (((memRead s (srcRegion s.snap.regs)).drop 16).take (s.snap.regs.srcLen.toNat - 20)) := by
  rw [decodePlain, containerDecrypt, memRead_length]
  rfl

theorem decodePlain_length {s : State} (hk : KeyLenOk s.snap.regs) (hn : 20 < s.snap.regs.srcLen.toNat)
    (ha : (s.snap.regs.srcLen.toNat - 20) % 16 = 0) : (decodePlain s).length = s.snap.regs.srcLen.toNat - 20 := by
  have hlen := sourceBytes_length s
  have hct : (((memRead s (srcRegion s.snap.regs)).drop 16).take (s.snap.regs.srcLen.toNat - 20)).length =
      s.snap.regs.srcLen.toNat - 20 := by
    rw [List.length_take, List.length_drop, hlen]; omega
  rw [decodePlain_eq, cbcDec_length (isAesKey_keyBytes hk) (by rw [List.length_take, hlen]; omega) (by rw [hct, ha]), hct]

theorem encodeBody_length {s : State} (hk : KeyLenOk s.snap.regs) :
    (encodeBody s).length = 16 + (s.snap.regs.srcLen.toNat + padLen s.snap.regs.srcLen.toNat) := by
  rw [encodeBody, containerBody, List.length_append, nextDraw_length,
    cbcEnc_length (isAesKey_keyBytes hk) (by rw [padBytes_length, padLen_aligns]), padBytes_length, sourceBytes_length]

theorem cbcEnc_source_length {s : State} (hk : KeyLenOk s.snap.regs) (ha : s.snap.regs.srcLen.toNat % 16 = 0) (iv : Bytes) :
    (cbcEnc (keyBytes s.snap.regs) iv (memRead s (srcRegion s.snap.regs))).length = s.snap.regs.srcLen.toNat := by
  rw [cbcEnc_length (isAesKey_keyBytes hk) (by rw [sourceBytes_length, ha]), sourceBytes_length]

theorem cbcDec_source_length {s : State} {iv : Bytes} (hk : KeyLenOk s.snap.regs) (ha : s.snap.regs.srcLen.toNat % 16 = 0)
    (hiv : iv.length = 16) :
    (cbcDec (keyBytes s.snap.regs) iv (memRead s (srcRegion s.snap.regs))).length = s.snap.regs.srcLen.toNat := by
  rw [cbcDec_length (isAesKey_keyBytes hk) hiv (by rw [sourceBytes_length, ha]), sourceBytes_length]

theorem padBytes_source_length (s : State) :
    (padBytes (memRead s (srcRegion s.snap.regs))).length = s.snap.regs.srcLen.toNat + padLen s.snap.regs.srcLen.toNat := by
  rw [padBytes_length, sourceBytes_length]

theorem unpadL_source_length_le (s : State) :
    (unpadL (memRead s (srcRegion s.snap.regs))).length ≤ s.snap.regs.srcLen.toNat := by
  rw [unpadL_length, sourceBytes_length]
  exact Nat.sub_le _ _

theorem container_length {s : State} (hk : KeyLenOk s.snap.regs) :
    (encodeBody s ++ le32 (checksum (encodeBody s))).length = containerLen s.snap.regs.srcLen.toNat := by
  rw [List.length_append, encodeBody_length hk, le32_length, containerLen]
  omega

/-! ### What a body leaves -/

/-- Every body ends in one of three ways: a data error of step 7 that writes nothing, the late failure of DECODE after its writes, or
a completion with no error after its writes. -/
theorem commandBody_cases {i : Instr} {s : State} (h : OperandsOk i s) :
    (i = .unpad .strict ∧ commandBody i s = raise .badPadding s) ∨
    (i = .encode ∧ commandBody i s = raise .invalidPlaintext s) ∨
    (∃ u, BodyWrites i s u ∧ (∃ m, i = .decode m) ∧ commandBody i s = raise .decryptionFailed u) ∨
    (∃ u n, BodyWrites i s u ∧ commandBody i s = finish (u.setDstLen n)) := by
  have start := BodyWrites.refl i s
  cases i with
  | crcCompute => exact .inr (.inr (.inr ⟨_, _, start.setCrc rfl _, rfl⟩))
  | crcUpdate => exact .inr (.inr (.inr ⟨_, _, start.setCrc rfl _, rfl⟩))
  | crcVerify => exact .inr (.inr (.inr ⟨_, _, (start.setCrc rfl _).warnIf rfl _, rfl⟩))
  | crcAppend => exact .inr (.inr (.inr ⟨_, _, (start.memWrite rfl rfl (v := le32 _) (Nat.le_refl 4)).setCrc rfl _, rfl⟩))
  | kdfBuf salt =>
    have hlen := kdf_length kdfHash_length (memRead s (srcRegion s.snap.regs)) (saltBytes s salt)
      s.snap.regs.kdfIter.toNat s.snap.regs.outLen.toNat
    exact .inr (.inr (.inr ⟨_, _, start.memWrite rfl rfl hlen.le, rfl⟩))
  | kdfKey salt => exact .inr (.inr (.inr ⟨_, _, start.setKey rfl _, rfl⟩))
  | cbcEnc =>
    obtain ⟨hk, ha, -⟩ := h
    exact .inr (.inr (.inr ⟨_, _, start.memWrite rfl rfl (cbcEnc_source_length hk ha _).le, rfl⟩))
  | cbcDec =>
    obtain ⟨hk, ha, -⟩ := h
    exact .inr (.inr (.inr ⟨_, _, start.memWrite rfl rfl (cbcDec_source_length hk ha (ivBytes_length _)).le, rfl⟩))
  | pad => exact .inr (.inr (.inr ⟨_, _, start.memWrite rfl rfl (padBytes_source_length s).le, rfl⟩))
  | unpad mode =>
    simp only [commandBody]
    split
    · next hp => exact .inl ⟨by rw [hp.1], rfl⟩
    · exact .inr (.inr (.inr ⟨_, _, start.memWrite rfl rfl (unpadL_source_length_le s), rfl⟩))
  | decode mode =>
    obtain ⟨hk, hn, ha, -⟩ := h
    have warned : BodyWrites (.decode mode) s (decodeWarned s) := (start.setCrc rfl _).warnIf rfl _
    simp only [commandBody]
    split
    · exact .inr (.inr (.inl ⟨_, warned.memForget rfl rfl, ⟨mode, rfl⟩, rfl⟩))
    · refine .inr (.inr (.inr ⟨_, _, warned.memWrite rfl rfl ?_, rfl⟩))
      rw [unpadL_length, decodePlain_length hk hn ha]
      exact Nat.sub_le _ _
  | encode =>
    obtain ⟨hk, -⟩ := h
    simp only [commandBody]
    split
    · exact .inr (.inl ⟨trivial, rfl⟩)
    · exact .inr (.inr (.inr ⟨_, _,
        (((start.drawTaken rfl).memWrite rfl rfl (container_length hk).le).setIv rfl _).setCrc rfl _, rfl⟩))

/-- Every command ends in a completion of what its body wrote: an error goes with DST_LEN = 0, and only DECODE's late failure keeps
any write. -/
theorem exec_eq_complete {i : Instr} {s t : State} (h : exec i s = .next t) :
    ∃ u e n, BodyWrites i s u ∧ t = (u.setDstLen n).complete e ∧
      (e ≠ .none → n = 0 ∧ ((e = .decryptionFailed ∧ ∃ m, i = .decode m) ∨ (e ≠ .decryptionFailed ∧ u = s))) := by
  have start := BodyWrites.refl i s
  rcases exec_cases h with ⟨he, rfl⟩ | ⟨he, rfl⟩
  · exact ⟨s, _, 0, start, rfl, fun _ => ⟨rfl, .inr ⟨operandError_ne_decryptionFailed i s, rfl⟩⟩⟩
  · rcases commandBody_cases ((operandError_eq_none_iff_operandsOk i s).mp he) with
      ⟨-, hb⟩ | ⟨-, hb⟩ | ⟨u, hu, hi, hb⟩ | ⟨u, n, hu, hb⟩
    · exact ⟨s, .badPadding, 0, start, hb, fun _ => ⟨rfl, .inr ⟨nofun, rfl⟩⟩⟩
    · exact ⟨s, .invalidPlaintext, 0, start, hb, fun _ => ⟨rfl, .inr ⟨nofun, rfl⟩⟩⟩
    · exact ⟨u, .decryptionFailed, 0, hu, hb, fun _ => ⟨rfl, .inl ⟨rfl, hi⟩⟩⟩
    · exact ⟨u, .none, n, hu, hb, fun hn => absurd rfl hn⟩

theorem exists_exec (i : Instr) (s : State) : ∃ t, exec i s = .next t := ⟨_, exec_eq i s⟩

/-- The completion of R120, and what no command writes. -/
theorem exec_completes {i : Instr} {s t : State} (h : exec i s = .next t) :
    t.eng = .idle ∧ t.done = true ∧ Untouched s t := by
  obtain ⟨u, e, n, hu, rfl, -⟩ := exec_eq_complete h
  exact ⟨rfl, rfl, hu.untouched⟩

/-- Settles O22: every command completes its writes, whatever its operands. -/
theorem everyCommandEndsInACompletion : Obligations.EveryCommandEndsInACompletion := by
  unfold Obligations.EveryCommandEndsInACompletion
  intro i s
  obtain ⟨t, ht⟩ := exists_exec i s
  obtain ⟨heng, hdone, huntouched⟩ := exec_completes ht
  refine ⟨t, ht, heng, hdone, ?_, ?_, huntouched⟩
  · rw [statusWord_getLsbD]
    simp [busyBit, heng]
  · rw [statusWord_getLsbD]
    exact hdone

/-- With both files kept, CRC_VALUE alone may differ. -/
theorem OperandsKept.eq_setCrc {o o' : OperandRegs} (h : OperandsKept o o') (hk : o'.key = o.key) (hv : o'.iv = o.iv) :
    o' = { o with crcValue := o'.crcValue } := by
  obtain ⟨c, k, v, rfl⟩ := h
  cases hk
  cases hv
  rfl

/-- Settles O23: the completion of an error has DST_LEN = 0, and only DECODE's late failure has written anything. -/
theorem failedCommandLeavesItsCode : Obligations.FailedCommandLeavesItsCode := by
  unfold Obligations.FailedCommandLeavesItsCode
  intro i s t h he
  obtain ⟨u, e, n, hu, rfl, herr⟩ := exec_eq_complete h
  obtain ⟨rfl, hlate⟩ := herr he
  obtain ⟨-, -, hcmd, -⟩ := hu.untouched
  have hbit : (statusWord ((u.setDstLen 0).complete e)).getLsbD 2 = true := by
    rw [statusWord_getLsbD]
    exact (errBit_eq_true_iff _).mpr he
  refine ⟨hcmd, statusWord_mem_errorCodes _, hbit, rfl, ?_⟩
  rcases hlate with ⟨rfl, m, rfl⟩ | ⟨-, rfl⟩
  · exact ⟨hu.operands.eq_setCrc (hu.key rfl) (hu.iv rfl), fun hn => absurd rfl hn⟩
  · exact ⟨rfl, fun _ => ⟨rfl, fun _ => rfl⟩⟩

/-- Settles O24: BUF is as before, or holds a byte string inside the destination region. -/
theorem commandWritesOnlyItsDestination : Obligations.CommandWritesOnlyItsDestination := by
  unfold Obligations.CommandWritesOnlyItsDestination
  intro i s t a h hout
  obtain ⟨u, e, n, hu, rfl, -⟩ := exec_eq_complete h
  rcases hu.buf with hb | ⟨r, v, hr, hv, hb⟩
  · exact congrArg (bufByte · a) hb
  · have ha : ¬(r.addr ≤ a ∧ a < r.addr + v.length) := fun hin => hout r hr ⟨hin.1, by omega⟩
    exact (congrArg (bufByte · a) hb).trans (bufByte_bufWrite_out _ _ _ ha)

/-- Settles O25: the columns of R60 as the frame of every command. -/
theorem commandsWriteOnlyTheirRegisters : Obligations.CommandsWriteOnlyTheirRegisters := by
  unfold Obligations.CommandsWriteOnlyTheirRegisters
  intro i s t h
  obtain ⟨u, e, n, hu, rfl, -⟩ := exec_eq_complete h
  refine ⟨?_, hu.crc, hu.key, fun hi => ⟨hu.iv hi, hu.draws hi⟩, hu.warn⟩
  obtain ⟨c, k, v, hregs⟩ := hu.operands
  rw [State.complete_regs, State.setDstLen_regs, hregs]

/-! ### Operand errors (R118) -/

theorem failedWith_raise (e : ErrCode) (s : State) : FailedWith s (raise e s) e :=
  ⟨⟨rfl, rfl, rfl, rfl, untouched_refl s⟩, rfl, rfl, fun _ => rfl, rfl, rfl⟩

/-- Settles O19: a command is its checks and its body, and the bodies raise the errors of step 7 only. -/
theorem operandErrorsAreReportedInOrder : Obligations.OperandErrorsAreReportedInOrder := by
  unfold Obligations.OperandErrorsAreReportedInOrder
  refine fun i s => ⟨fun he => ⟨_, exec_of_operandError he, failedWith_raise _ s⟩, fun he => ?_⟩
  refine ⟨_, exec_of_operandsInOrder he, ?_⟩
  rcases commandBody_cases ((operandError_eq_none_iff_operandsOk i s).mp he) with
    ⟨hi, hb⟩ | ⟨hi, hb⟩ | ⟨u, -, hi, hb⟩ | ⟨u, n, -, hb⟩ <;> rw [hb]
  · exact .inr (.inr (.inl ⟨hi, rfl⟩))
  · exact .inr (.inl ⟨hi, rfl⟩)
  · obtain ⟨m, hm⟩ := hi
    exact .inr (.inr (.inr ⟨m, hm, rfl⟩))
  · exact .inl rfl

/-! ### What a command reads (R60) -/

/-- `s` with another snapshot of the operand registers. -/
def State.withOperands (s : State) (o : OperandRegs) : State := { s with snap := ⟨o, s.snap.buf⟩ }

section
variable (s : State) (o : OperandRegs)

@[simp] theorem withOperands_regs : (s.withOperands o).snap.regs = o := rfl
@[simp] theorem memRead_withOperands (r : Region) : memRead (s.withOperands o) r = memRead s r := rfl
@[simp] theorem nextDraw_withOperands : nextDraw (s.withOperands o) = nextDraw s := rfl
@[simp] theorem setCrc_withOperands (v : Word) : (s.withOperands o).setCrc v = (s.setCrc v).withOperands o := rfl
@[simp] theorem setDstLen_withOperands (n : Nat) : (s.withOperands o).setDstLen n = (s.setDstLen n).withOperands o := rfl
@[simp] theorem warnIf_withOperands (m : Bool) : (s.withOperands o).warnIf m = (s.warnIf m).withOperands o := rfl
@[simp] theorem setKey_withOperands (k : Vector Word 8) : (s.withOperands o).setKey k = (s.setKey k).withOperands o := rfl
@[simp] theorem setIv_withOperands (v : Vector Word 4) : (s.withOperands o).setIv v = (s.setIv v).withOperands o := rfl
@[simp] theorem drawTaken_withOperands : (s.withOperands o).drawTaken = s.drawTaken.withOperands o := rfl
@[simp] theorem memWrite_withOperands (a : Nat) (v : Bytes) :
    (s.withOperands o).memWrite a v = (s.memWrite a v).withOperands o := rfl
@[simp] theorem memForget_withOperands (r : Region) : (s.withOperands o).memForget r = (s.memForget r).withOperands o := rfl
@[simp] theorem finish_withOperands : finish (s.withOperands o) = (finish s).withOperands o := rfl
@[simp] theorem raise_withOperands (e : ErrCode) : raise e (s.withOperands o) = (raise e s).withOperands o := rfl

theorem ite_withOperands (c : Prop) [Decidable c] (t : State) :
    (if c then s.withOperands o else t.withOperands o) = (if c then s else t).withOperands o :=
  (apply_ite (State.withOperands · o) c s t).symm

end

section
variable {i : Instr} {s : State} {o' : OperandRegs} (h : AgreeOnReads i s.snap.regs o')
include h

theorem srcRegion_of_agree : srcRegion o' = srcRegion s.snap.regs := by
  obtain ⟨haddr, hlen, -⟩ := h
  rw [srcRegion, haddr, hlen]
  rfl

theorem sourceRegions_of_agree : sourceRegions i o' = sourceRegions i s.snap.regs := by
  have hsrc := srcRegion_of_agree h
  obtain ⟨-, -, haux, -⟩ := h
  unfold sourceRegions
  split
  · next hu =>
    obtain ⟨haddr, hlen⟩ := haux hu
    rw [hsrc, auxRegion, haddr, hlen]
    rfl
  · rw [hsrc]

theorem destRegion_of_agree : destRegion i o' = destRegion i s.snap.regs := by
  obtain ⟨haddr, hlen, -, hrest⟩ := h
  cases i <;> simp_all [destRegion, trailerRegion, dstRegion]

theorem lengthError_of_agree : lengthError i o' = lengthError i s.snap.regs := by
  obtain ⟨-, hlen, -⟩ := h
  simp only [lengthError, hlen]

theorem paramError_of_agree : paramError i o' = paramError i s.snap.regs := by
  obtain ⟨-, -, -, hrest⟩ := h
  cases i with
  | kdfBuf salt =>
    obtain ⟨-, hlen, hiter⟩ := hrest
    simp only [paramError, hlen, hiter]
  | kdfKey salt =>
    obtain ⟨hiter, -⟩ := hrest
    simp only [paramError, hiter]
  | _ => rfl

theorem keyLen_of_agree (hi : needsKeyLen i = true) : o'.keyLen = s.snap.regs.keyLen := by
  obtain ⟨-, -, -, hrest⟩ := h
  cases i with
  | kdfKey salt => exact hrest.2
  | cbcEnc | cbcDec | decode | encode => exact hrest.2.1
  | _ => cases hi

/-- The error due depends on the registers the command reads. -/
theorem operandError_of_agree : operandError i (s.withOperands o') = operandError i s := by
  have hkey : needsKeyLen i = true ∧ ¬KeyLenOk o' ↔ needsKeyLen i = true ∧ ¬KeyLenOk s.snap.regs :=
    and_congr_right fun hi => by rw [KeyLenOk, keyLen_of_agree h hi]
  have hused : usedRegions i o' = usedRegions i s.snap.regs := by
    rw [usedRegions, sourceRegions_of_agree h, destRegion_of_agree h, usedRegions]
  have hover : overlapError i o' = overlapError i s.snap.regs := by
    rw [overlapError, sourceRegions_of_agree h, destRegion_of_agree h, overlapError]
  rw [operandError_eq, operandError_eq]
  change (if needsKeyLen i = true ∧ ¬KeyLenOk o' then _ else if paramError i o' = true then _ else
    (lengthError i o').getD (if ∃ r ∈ usedRegions i o', ¬InRange s r then _ else if overlapError i o' = true then _ else _)) = _
  simp only [hkey, hused, hover, lengthError_of_agree h, paramError_of_agree h]

theorem saltBytes_of_agree {salt : SaltSel} (hi : salt = .auxRegion → usesAux i = true) :
    saltBytes (s.withOperands o') salt = saltBytes s salt := by
  obtain ⟨-, -, haux, -⟩ := h
  cases salt with
  | auxRegion =>
    obtain ⟨haddr, hlen⟩ := haux (hi rfl)
    simp [saltBytes, auxRegion, haddr, hlen]
  | fixedSalt => rfl

/-- A body computes the same from two snapshots that agree on the registers the command reads. -/
theorem commandBody_of_agree : commandBody i (s.withOperands o') = (commandBody i s).withOperands o' := by
  have hsrc := srcRegion_of_agree h
  have hsalt := fun salt => saltBytes_of_agree h (salt := salt)
  obtain ⟨haddr, hlen, -, hrest⟩ := h
  cases i with
  | crcCompute | crcVerify => simp [commandBody, hsrc]
  | crcUpdate => simp [commandBody, hsrc, hrest]
  | crcAppend => simp [commandBody, hsrc, trailerRegion, haddr, hlen]
  | kdfBuf salt =>
    obtain ⟨hdst, hout, hiter⟩ := hrest
    simp [commandBody, hsrc, hsalt salt (fun hs => by rw [hs]; rfl), hdst, hout, hiter]
  | kdfKey salt =>
    obtain ⟨hiter, hkl⟩ := hrest
    simp [commandBody, hsrc, hsalt salt (fun hs => by rw [hs]; rfl), hkl, hiter]
  | cbcEnc | cbcDec =>
    obtain ⟨hdst, hkl, hkey, hiv⟩ := hrest
    simp [commandBody, hsrc, keyBytes, ivBytes, hdst, hkl, hkey, hiv, hlen]
  | pad => simp [commandBody, hsrc, hrest, hlen]
  | unpad mode => simp only [commandBody, withOperands_regs, memRead_withOperands, hsrc, hrest, memWrite_withOperands,
      setDstLen_withOperands, finish_withOperands, raise_withOperands, ite_withOperands]
  | decode mode =>
    obtain ⟨hdst, hkl, hkey⟩ := hrest
    have hplain : decodePlain (s.withOperands o') = decodePlain s := by simp [decodePlain, hsrc, keyBytes, hkl, hkey]
    have hwarned : decodeWarned (s.withOperands o') = (decodeWarned s).withOperands o' := by simp [decodeWarned, hsrc]
    simp only [commandBody, withOperands_regs, hplain, hwarned, dstRegion, hdst, hlen, memWrite_withOperands,
      memForget_withOperands, setDstLen_withOperands, finish_withOperands, raise_withOperands, ite_withOperands]
  | encode =>
    obtain ⟨hdst, hkl, hkey⟩ := hrest
    have hbody : encodeBody (s.withOperands o') = encodeBody s := by simp [encodeBody, hsrc, keyBytes, hkl, hkey]
    simp [commandBody, hsrc, hbody, hdst, hlen, ite_withOperands]

end

/-- Settles O26: the checks and the body depend on the registers read alone. -/
theorem unreadRegistersDoNotAffectTheCommand : Obligations.UnreadRegistersDoNotAffectTheCommand := by
  unfold Obligations.UnreadRegistersDoNotAffectTheCommand
  intro i s t o' h ht
  obtain ⟨-, -, -, -, -, -, -, -, hsnap, -⟩ := exec_completes ht
  have ht' : { t with snap := ⟨o', s.snap.buf⟩ } = t.withOperands o' := by rw [State.withOperands, hsnap]
  rw [exec_eq, Host.Outcome.next.injEq] at ht
  rw [ht']
  change exec i (s.withOperands o') = _
  rw [exec_eq, operandError_of_agree h, commandBody_of_agree h, ← ht]
  simp only [checked, raise_withOperands, ite_withOperands]

end Sys2Proof.Machine
end

section
/-! The twelve commands: where each completes, its result and its frame (spec/40_checksum.md to spec/43_container.md). Each is its
body, since its operands are in order; what is left is the result. -/

namespace Sys2Proof.Machine

/-! ### Completion and stores -/

theorem completedWith_of_exec {i : Instr} {s t : State} (h : exec i s = .next t) :
    CompletedWith s t t.errCode t.dstLen.toNat := by
  obtain ⟨heng, hdone, huntouched⟩ := exec_completes h
  exact ⟨heng, hdone, rfl, rfl, huntouched⟩

theorem completedWith_finish {i : Instr} {s u : State} {n : Nat} (h : exec i s = .next (finish (u.setDstLen n)))
    (hn : n < 2 ^ 32) : CompletedWith s (finish (u.setDstLen n)) .none n := by
  obtain ⟨heng, hdone, huntouched⟩ := exec_completes h
  exact ⟨heng, hdone, rfl, Nat.mod_eq_of_lt hn, huntouched⟩

theorem bufStored_bufWrite {s t : State} {a : Nat} {v : Bytes} (h : t.buf = bufWrite s.buf a v) : BufStored s t a v := by
  unfold BufStored
  rw [h]
  exact ⟨fun _ => bufByte_bufWrite_in _ _ _, fun _ => bufByte_bufWrite_out _ _ _⟩

theorem exec_eq_of_body {i : Instr} {s t : State} (h : OperandsOk i s) (hb : commandBody i s = t) : exec i s = .next t :=
  hb ▸ exec_of_operandsOk h

/-- A region of BUF is short. -/
theorem len_lt_of_inRange {s : State} {r : Region} (h : InRange s r) : r.len < 2 ^ 32 := by
  have := bufSize_le s
  simp only [InRange] at h
  omega

theorem dst_len_lt_of_regionsOk {s : State} {n : Nat} (h : RegionsOk s n) : n < 2 ^ 32 := by
  obtain ⟨-, hdst, -⟩ := h
  exact len_lt_of_inRange hdst

/-- A command whose body stores one result at its destination completes with it, and changes nothing else. -/
theorem storeCompletes {i : Instr} {s : State} {a n : Nat} {v : Bytes} (h : OperandsOk i s)
    (hb : commandBody i s = finish ((s.memWrite a v).setDstLen n)) (hn : n < 2 ^ 32) :
    ∃ t, exec i s = .next t ∧ CompletedWith s t .none n ∧ t.regs = s.regs ∧ t.chkWarn = s.chkWarn ∧ BufStored s t a v ∧
      FreeKept s t := by
  have hexec := exec_eq_of_body h hb
  exact ⟨_, hexec, completedWith_finish hexec hn, by simp, by simp, bufStored_bufWrite rfl, by simp [FreeKept]⟩

/-! ### The checksum commands (40_checksum.md R74 to R77) -/

/-- R73 over a source: the checksum of all but the trailer, and whether the trailer differs. -/
theorem verify_source {s : State} {n : Nat} (h : n = s.snap.regs.srcLen.toNat - 4) :
    verify (memRead s (srcRegion s.snap.regs)) =
      (crcFold Config.crcPolyG Config.crcSeedS ((memRead s (srcRegion s.snap.regs)).take n),
        decide (crcFold Config.crcPolyG Config.crcSeedS ((memRead s (srcRegion s.snap.regs)).take n) ≠
          fromLE32 ((memRead s (srcRegion s.snap.regs)).drop n))) := by
  rw [verify, sourceBytes_length, ← h, checksum, crc]
  simp only [bne, decide_not]
  rfl

/-- Settles O7: the body folds the source from the seed. -/
theorem crcComputeCompletes : Obligations.CrcComputeCompletes := by
  unfold Obligations.CrcComputeCompletes
  intro s h
  have hexec := exec_of_operandsOk (i := .crcCompute) h
  refine ⟨_, hexec, ?_⟩
  exact ⟨completedWith_finish hexec (by decide), rfl, by simp [commandBody],
    fun _ => rfl, by simp [FreeKept, commandBody]⟩

/-- Settles O8: the body folds the source from the snapshot's CRC_VALUE. -/
theorem crcUpdateCompletes : Obligations.CrcUpdateCompletes := by
  unfold Obligations.CrcUpdateCompletes
  intro s h
  have hexec := exec_of_operandsOk (i := .crcUpdate) h
  refine ⟨_, hexec, ?_⟩
  exact ⟨completedWith_finish hexec (by decide), rfl, by simp [commandBody],
    fun _ => rfl, by simp [FreeKept, commandBody]⟩

/-- Settles O9: the source is split where R73 splits it. -/
theorem crcVerifyCompletes : Obligations.CrcVerifyCompletes := by
  unfold Obligations.CrcVerifyCompletes
  intro s hlen h n data computed
  have hverify : verify data = (computed, decide (computed ≠ fromLE32 (data.drop n))) := verify_source rfl
  have hbody : commandBody .crcVerify s =
      finish (((s.setCrc computed).warnIf (decide (computed ≠ fromLE32 (data.drop n)))).setDstLen 0) := by
    rw [commandBody, hverify]
  have hexec := exec_eq_of_body (i := .crcVerify) ⟨hlen, h⟩ hbody
  refine ⟨_, hexec, ?_⟩
  exact ⟨completedWith_finish hexec (by decide), by simp, by simp, fun _ => rfl, by simp [FreeKept]⟩

/-- Settles O10: the trailer is stored at its own region. -/
theorem crcAppendCompletes : Obligations.CrcAppendCompletes := by
  unfold Obligations.CrcAppendCompletes
  intro s h c
  have hexec := exec_of_operandsOk (i := .crcAppend) h
  refine ⟨_, hexec, ?_⟩
  exact ⟨completedWith_finish hexec (by decide), rfl, by simp [commandBody],
    bufStored_bufWrite rfl, by simp [FreeKept, commandBody]⟩

/-! ### The KDF commands (41_kdf.md R84, R85) -/

/-- Settles O11: the derived key has OUT_LEN bytes, and the destination holds them. -/
theorem kdfBufCompletes : Obligations.KdfBufCompletes := by
  unfold Obligations.KdfBufCompletes
  intro salt s o dst hiter hout hsrc hdst hos haux salt' k
  have hk : k = kdf kdfHash (memRead s (srcRegion o)) (saltBytes s salt) o.kdfIter.toNat o.outLen.toNat := by
    cases salt <;> rfl
  rw [hk]
  exact ⟨kdf_length kdfHash_length _ _ _ _,
    storeCompletes (i := .kdfBuf salt) ⟨hiter, hout, ⟨hsrc, hdst, hos⟩, haux⟩ rfl o.outLen.isLt⟩

/-- Settles O12: the key and the zeros after it fill the key file. -/
theorem kdfKeyCompletes : Obligations.KdfKeyCompletes := by
  unfold Obligations.KdfKeyCompletes
  intro salt s o hkl hiter hsrc haux salt' k
  have hk : k = kdf kdfHash (memRead s (srcRegion o)) (saltBytes s salt) o.kdfIter.toNat o.keyLen.toNat := by
    cases salt <;> rfl
  have hlen : k.length = o.keyLen.toNat := kdf_length kdfHash_length _ _ _ _
  have hfile : (k ++ rep (32 - o.keyLen.toNat) 0x00).length = 32 := by
    rw [List.length_append, hlen, rep_length]
    rcases hkl with h | h | h <;> rw [h] <;> rfl
  have hexec := exec_of_operandsOk (i := .kdfKey salt) ⟨hkl, hiter, hsrc, haux⟩
  refine ⟨hlen, _, hexec, ?_⟩
  refine ⟨completedWith_finish hexec o.keyLen.isLt, ?_, by simp [commandBody], by simp [commandBody], fun _ => rfl,
    by simp [FreeKept, commandBody]⟩
  rw [← keyFileBytes_keyFileOf hfile, hk]
  rfl

/-! ### The cipher commands (42_cipher.md R94 to R97) -/

/-- Settles O13: the encryption is as long as the source, and the body stores it. -/
theorem cbcEncCompletes : Obligations.CbcEncCompletes := by
  unfold Obligations.CbcEncCompletes
  intro s o dst hk ha hsrc hdst hos c
  exact ⟨cbcEnc_source_length hk ha _, storeCompletes (i := .cbcEnc) ⟨hk, ha, hsrc, hdst, hos⟩ rfl o.srcLen.isLt⟩

/-- Settles O14: the decryption is as long as the source, and the body stores it. -/
theorem cbcDecCompletes : Obligations.CbcDecCompletes := by
  unfold Obligations.CbcDecCompletes
  intro s o dst hk ha hsrc hdst hos p
  exact ⟨cbcDec_source_length hk ha (ivBytes_length o),
    storeCompletes (i := .cbcDec) ⟨hk, ha, hsrc, hdst, hos⟩ rfl o.srcLen.isLt⟩

theorem padBytes_source (s : State) :
    padBytes (memRead s (srcRegion s.snap.regs)) = memRead s (srcRegion s.snap.regs) ++
      rep (padLen s.snap.regs.srcLen.toNat) (BitVec.ofNat 8 (padLen s.snap.regs.srcLen.toNat)) := by
  rw [padBytes, sourceBytes_length]

/-- Settles O15: the body stores the source and its pad. -/
theorem padCompletes : Obligations.PadCompletes := by
  unfold Obligations.PadCompletes
  intro s o k dst hsrc hdst hos
  have hregions : RegionsOk s (o.srcLen.toNat + k) := ⟨hsrc, hdst, hos⟩
  have hpad : memRead s (srcRegion o) ++ rep k (BitVec.ofNat 8 k) = padBytes (memRead s (srcRegion o)) :=
    (padBytes_source s).symm
  rw [hpad]
  exact storeCompletes (i := .pad) hregions rfl (dst_len_lt_of_regionsOk hregions)

/-- Settles O16: the bytes kept are those before the padding. -/
theorem unpadCompletes : Obligations.UnpadCompletes := by
  unfold Obligations.UnpadCompletes
  intro mode s o dst d hpos hsrc hdst hos hvalid n
  have hkept : unpadL d = d.take n := by rw [unpadL, padByte, sourceBytes_length]
  have hlen : (unpadL d).length = n := by rw [unpadL_length, padByte, sourceBytes_length]
  have hbody : commandBody (.unpad mode) s = finish ((s.memWrite o.dstAddr.toNat (d.take n)).setDstLen n) := by
    rw [← hkept, ← hlen]
    exact if_neg fun ⟨hm, hp⟩ => hp (hvalid hm)
  have hn : n < 2 ^ 32 := Nat.lt_of_le_of_lt (Nat.sub_le _ _) o.srcLen.isLt
  exact storeCompletes (i := .unpad mode) ⟨hpos, hsrc, hdst, hos⟩ hbody hn

/-! ### The container commands (43_container.md R100, R101) -/

/-- DECODE's step 1: CRC_VALUE and CHK_WARN. -/
theorem decodeWarned_eq {s : State} (hn : 20 < s.snap.regs.srcLen.toNat) :
    let c := memRead s (srcRegion s.snap.regs)
    let m := s.snap.regs.srcLen.toNat - 20 + 16
    let computed := crcFold Config.crcPolyG Config.crcSeedS (c.take m)
    decodeWarned s = (s.setCrc computed).warnIf (decide (computed ≠ fromLE32 (c.drop m))) := by
  intro c m computed
  rw [decodeWarned, verify_source (n := m) (by omega)]

/-- Settles O17: the body's verdicts on padding and plaintext are the hypotheses. -/
theorem decodeCompletes : Obligations.DecodeCompletes := by
  unfold Obligations.DecodeCompletes
  intro mode s o n dst c d hk hlen ha hsrc hdst hos hvalid hstruct computed
  have hplain : decodePlain s = d := decodePlain_eq s
  have hwarned : decodeWarned s = (s.setCrc computed).warnIf (decide (computed ≠ fromLE32 (c.drop (n + 16)))) :=
    decodeWarned_eq hlen
  have hbody : commandBody (.decode mode) s =
      finish (((decodeWarned s).memWrite o.dstAddr.toNat (unpadL d)).setDstLen (unpadL d).length) := by
    rw [← hplain] at hvalid hstruct ⊢
    exact if_neg (not_or.mpr ⟨fun ⟨hm, hp⟩ => hp (hvalid hm), not_not.mpr hstruct⟩)
  have hd : (unpadL d).length < 2 ^ 32 := by
    rw [unpadL_length, ← hplain, decodePlain_length hk hlen ha]
    have := o.srcLen.isLt
    omega
  have hexec := exec_eq_of_body (i := .decode mode) ⟨hk, hlen, ha, hsrc, hdst, hos⟩ hbody
  rw [hwarned] at hexec
  refine ⟨_, hexec, ?_⟩
  exact ⟨completedWith_finish hexec hd, by simp, by simp, bufStored_bufWrite rfl, by simp [FreeKept]⟩

/-- Settles O20: the late failure keeps step 1 and writes free values to the destination only. -/
theorem decodeLateFailure : Obligations.DecodeLateFailure := by
  unfold Obligations.DecodeLateFailure
  intro mode s o n dst c d hok hlate computed
  have hoperands := (operandError_eq_none_iff_operandsOk _ s).mp hok
  have hlen : 20 < o.srcLen.toNat := hoperands.2.1
  have hplain : decodePlain s = d := decodePlain_eq s
  have hwarned : decodeWarned s = (s.setCrc computed).warnIf (decide (computed ≠ fromLE32 (c.drop (n + 16)))) :=
    decodeWarned_eq hlen
  have hbody : commandBody (.decode mode) s = raise .decryptionFailed ((decodeWarned s).memForget dst) := by
    rw [← hplain] at hlate
    exact if_pos (hlate.imp_right fun hs => by rw [hs]; exact Bool.false_ne_true)
  have hexec := exec_eq_of_body hoperands hbody
  rw [hwarned] at hexec
  refine ⟨_, hexec, ?_⟩
  exact ⟨completedWith_of_exec hexec, by simp [raise], by simp [raise], fun a ha => bufByte_memForget_out s dst ha, by simp⟩

/-- ENCODE of a valid plaintext. -/
theorem commandBody_encode_of_valid {s : State} (h : Config.structuredValid (memRead s (srcRegion s.snap.regs)) = true) :
    commandBody .encode s =
      finish ((((s.drawTaken.memWrite s.snap.regs.dstAddr.toNat (encodeBody s ++ le32 (checksum (encodeBody s)))).setIv
        (ivFileOf (nextDraw s))).setCrc (checksum (encodeBody s))).setDstLen (containerLen s.snap.regs.srcLen.toNat)) :=
  if_neg (not_not.mpr h)

/-- Settles O18: the body of the container is what R101 assembles, for any draw. -/
theorem encodeCompletes : Obligations.EncodeCompletes := by
  unfold Obligations.EncodeCompletes
  intro s o n k dst p hk hsrc hdst hos hvalid iv body c
  have hregions : RegionsOk s (containerLen n) := ⟨hsrc, hdst, hos⟩
  have hbody : encodeBody s = body := by rw [encodeBody, containerBody, padBytes_source]; rfl
  have hc : checksum body = c := rfl
  have hstate := commandBody_encode_of_valid hvalid
  have hlen := container_length hk
  rw [hbody, hc] at hstate hlen
  have hexec := exec_eq_of_body (i := .encode) ⟨hk, hregions⟩ hstate
  refine ⟨hlen, _, hexec, ?_⟩
  exact ⟨completedWith_finish hexec (dst_len_lt_of_regionsOk hregions), fileBytes_ivFileOf (nextDraw_length s),
    by simp, by simp, bufStored_bufWrite (a := s.snap.regs.dstAddr.toNat) (by simp), by simp, by simp⟩

/-- Settles O21: each data error is raised before its command writes anything. -/
theorem dataErrorsChangeNothing : Obligations.DataErrorsChangeNothing := by
  unfold Obligations.DataErrorsChangeNothing
  refine ⟨fun s hok hpad => ?_, fun s hok => ⟨_, exec_of_operandsInOrder hok, ?_⟩⟩
  · have hbody : commandBody (.unpad .strict) s = raise .badPadding s := if_pos ⟨rfl, hpad⟩
    exact ⟨_, exec_eq_of_body ((operandError_eq_none_iff_operandsOk _ s).mp hok) hbody, failedWith_raise _ s⟩
  · split
    · next hv =>
      rw [commandBody_encode_of_valid hv]
      exact ⟨rfl, rfl⟩
    · next hv =>
      have hbody : commandBody .encode s = raise .invalidPlaintext s := if_pos hv
      rw [hbody]
      exact failedWith_raise _ s

end Sys2Proof.Machine
end

section
/-! The round trips on the machine: CRC_VERIFY of what CRC_APPEND stamped (spec/40_checksum.md) and DECODE of what ENCODE wrote
(spec/43_container.md), each from the two commands' results. -/

namespace Sys2Proof.Machine

/-! ### Reading what was stored -/

theorem bufRead_add (b : Buf) (a m n : Nat) : bufRead b a (m + n) = bufRead b a m ++ bufRead b (a + m) n := by
  simp only [bufRead, List.range_add, List.map_append, List.map_map]
  congr 2
  funext i
  exact congrArg (bufByte b) (Nat.add_assoc a m i).symm

theorem bufRead_of_bufStored {s t : State} {a : Nat} {v : Bytes} (h : BufStored s t a v) : bufRead t.buf a v.length = v := by
  obtain ⟨hin, -⟩ := h
  refine List.ext_getElem (bufRead_length _ _ _) fun i _ hi => ?_
  simp [bufRead, hin i hi, byteAt, hi]

/-- Bytes before the ones stored read as before. -/
theorem bufRead_before_bufStored {s t : State} {a c n : Nat} {v : Bytes} (h : BufStored s t a v) (hn : c + n ≤ a) :
    bufRead t.buf c n = bufRead s.buf c n := by
  obtain ⟨-, hout⟩ := h
  refine List.map_congr_left fun i hi => hout _ ?_
  rw [List.mem_range] at hi
  omega

/-- A command that ends with no error had its operands in order. -/
theorem operandsOk_of_exec {i : Instr} {s t : State} (h : exec i s = .next t) (he : t.errCode = .none) :
    OperandsOk i s ∧ t = commandBody i s := by
  rcases exec_cases h with ⟨hne, rfl⟩ | ⟨hok, ht⟩
  · exact absurd he hne
  · exact ⟨(operandError_eq_none_iff_operandsOk i s).mp hok, ht⟩

/-! ### CRC_APPEND and CRC_VERIFY -/

/-- Settles O29: CRC_VERIFY reads the source and its little-endian checksum. -/
theorem appendedTrailerVerifies : Obligations.AppendedTrailerVerifies := by
  unfold Obligations.AppendedTrailerVerifies
  intro s t u hsnap ht he hsel hbuf haddr hlen
  have hrange : InRange s (trailerRegion s.snap.regs) := (operandsOk_of_exec ht he).1
  obtain ⟨t', ht', -, hregs, -, hstored, -⟩ := crcAppendCompletes s hrange
  cases Host.Outcome.next.inj (ht.symm.trans ht')
  have hsource : bufRead t.buf s.snap.regs.srcAddr.toNat s.snap.regs.srcLen.toNat = memRead s (srcRegion s.snap.regs) := by
    rw [bufRead_before_bufStored hstored (Nat.le_refl _), memRead, hsnap]
    rfl
  have hdata : memRead u (srcRegion u.snap.regs) = memRead s (srcRegion s.snap.regs) ++
      le32 (crcFold Config.crcPolyG Config.crcSeedS (memRead s (srcRegion s.snap.regs))) := by
    rw [memRead, hbuf, srcRegion, haddr, hlen, bufRead_add, hsource, ← bufRead_of_bufStored hstored]
    rfl
  have hsize : bufSize u = bufSize s := by rw [bufSize, hsel, bufSize]
  have hin : InRange u (srcRegion u.snap.regs) := by
    simp only [InRange, srcRegion, trailerRegion, haddr, hlen, hsize] at hrange ⊢
    omega
  obtain ⟨w, hw, hcompleted, hwregs, hwarn, -, -⟩ := crcVerifyCompletes u (by omega) hin
  have hn : u.snap.regs.srcLen.toNat - 4 = (memRead s (srcRegion s.snap.regs)).length := by
    rw [sourceBytes_length, hlen, Nat.add_sub_cancel]
  simp only [hdata, hn, List.take_left, List.drop_left, fromLE32_le32, ne_eq, not_true_eq_false, decide_false,
    Bool.or_false] at hwarn hwregs
  obtain ⟨-, -, herr, -⟩ := hcompleted
  exact ⟨w, hw, herr, hwarn, by rw [hwregs, hregs]⟩

/-! ### ENCODE and DECODE -/

/-- The parts of a container (43_container.md R98). -/
theorem containerDecrypt_container {k iv ct trailer : Bytes} (hiv : iv.length = 16) (ht : trailer.length = 4) :
    containerDecrypt k (iv ++ ct ++ trailer) = cbcDec k iv ct := by
  have hn : (iv ++ ct ++ trailer).length - 20 = ct.length := by
    rw [List.length_append, List.length_append]; omega
  rw [containerDecrypt, hn, List.append_assoc, List.take_left' hiv, List.drop_left' hiv, List.take_left]

/-- The container ENCODE writes (43_container.md R101, step 6). -/
def encodeContainer (s : State) : Bytes := encodeBody s ++ le32 (checksum (encodeBody s))

/-- What an ENCODE that ends with no error has left. -/
theorem encode_result {s t : State} (ht : exec .encode s = .next t) (he : t.errCode = .none) :
    KeyLenOk s.snap.regs ∧ RegionsOk s (containerLen s.snap.regs.srcLen.toNat) ∧
      Config.structuredValid (memRead s (srcRegion s.snap.regs)) = true ∧
      BufStored s t s.snap.regs.dstAddr.toNat (encodeContainer s) ∧ t.regs.crcValue = checksum (encodeBody s) ∧
      t.dstLen.toNat = (encodeContainer s).length := by
  obtain ⟨⟨hk, hregions⟩, rfl⟩ := operandsOk_of_exec ht he
  have hvalid : Config.structuredValid (memRead s (srcRegion s.snap.regs)) = true := by
    by_contra hv
    have hbody : commandBody .encode s = raise .invalidPlaintext s := if_pos hv
    rw [hbody] at he
    cases he
  rw [commandBody_encode_of_valid hvalid, encodeContainer, container_length hk]
  exact ⟨hk, hregions, hvalid, bufStored_bufWrite (by simp), by simp,
    Nat.mod_eq_of_lt (dst_len_lt_of_regionsOk hregions)⟩

/-- The checksum of a container is its trailer. -/
theorem verify_append_checksum (data : Bytes) : verify (data ++ le32 (checksum data)) = (checksum data, false) := by
  have hn : (data ++ le32 (checksum data)).length - 4 = data.length := by
    rw [List.length_append, le32_length, Nat.add_sub_cancel]
  rw [verify, hn, List.take_left, List.drop_left, fromLE32_le32, bne_self_eq_false]

/-- Settles O38: DECODE reads the container ENCODE stored; its ciphertext decrypts to the padded plaintext, and its trailer is the
checksum of the rest. -/
theorem containerRoundTrip : Obligations.ContainerRoundTrip := by
  unfold Obligations.ContainerRoundTrip
  intro mode s t u ht he hsel hbuf hkey hkl haddr hlen hdst hos p
  obtain ⟨hk, ⟨-, hdstS, -⟩, hvalid, hstored, hcrc, hdstLen⟩ := encode_result ht he
  have hclen : (encodeContainer s).length = containerLen s.snap.regs.srcLen.toNat := container_length hk
  have hulen : u.snap.regs.srcLen.toNat = containerLen s.snap.regs.srcLen.toNat := by rw [hlen, hdstLen, hclen]
  have hdata : memRead u (srcRegion u.snap.regs) = encodeContainer s := by
    rw [memRead, hbuf, srcRegion, haddr, hlen, hdstLen]
    exact bufRead_of_bufStored hstored
  have hplain : decodePlain u = padBytes p := by
    have hkeys : keyBytes u.snap.regs = keyBytes s.snap.regs := by rw [keyBytes, hkey, hkl, keyBytes]
    rw [decodePlain, hdata, hkeys, encodeContainer, encodeBody, containerBody,
      containerDecrypt_container (nextDraw_length s) (le32_length _),
      cbcDec_cbcEnc (isAesKey_keyBytes hk) (nextDraw_length s) (by rw [padBytes_length, padLen_aligns])]
  have hwarned : decodeWarned u = (u.setCrc (checksum (encodeBody s))).warnIf false := by
    rw [decodeWarned, hdata, encodeContainer, verify_append_checksum]
  have hoperands : OperandsOk (.decode mode) u := by
    have halign := padLen_aligns s.snap.regs.srcLen.toNat
    obtain ⟨hpos, -⟩ := padLen_bounds s.snap.regs.srcLen.toNat
    have hlong : u.snap.regs.srcLen.toNat = 20 + (s.snap.regs.srcLen.toNat + padLen s.snap.regs.srcLen.toNat) := by
      rw [hulen, containerLen]; omega
    have hsrc : InRange u (srcRegion u.snap.regs) := by
      simp only [InRange, dstRegion, srcRegion, haddr, hulen, bufSize, hsel] at hdstS ⊢
      exact hdstS
    rw [← hlen] at hdst hos
    exact ⟨by rw [KeyLenOk, hkl]; exact hk, by omega, by omega, hsrc, hdst, hos⟩
  have hbody : commandBody (.decode mode) u =
      finish ((((u.setCrc (checksum (encodeBody s))).warnIf false).memWrite u.snap.regs.dstAddr.toNat p).setDstLen p.length) := by
    rw [← hwarned, ← unpadL_padBytes p, ← hplain]
    refine if_neg (not_or.mpr ⟨fun ⟨_, hp⟩ => hp (hplain ▸ padValid_padBytes p), not_not.mpr ?_⟩)
    rw [hplain, unpadL_padBytes]
    exact hvalid
  have hexec := exec_eq_of_body hoperands hbody
  exact ⟨_, hexec, completedWith_finish hexec (sourceBytes_length s ▸ s.snap.regs.srcLen.isLt), by simp, by simp [hcrc],
    bufStored_bufWrite (by simp)⟩

end Sys2Proof.Machine
end

section
/-! The host port (spec/10_state.md R21 to R34; spec/20_memory.md R41 to R47): what each kind of access answers and changes; the two
resets (spec/70_reset_and_hazards.md R134 to R136) and the engine's turn (spec/60_exceptions.md R131). -/

namespace Sys2Proof.Machine

/-! ### Accesses and their targets -/

theorem accessAllowed_of_wellFormed {off : Offset} {w : Width} (h : accessWellFormed off w = true) :
    accessAllowed off w = true :=
  (accessAllowed_eq_wellFormed off w).trans h

theorem busRead_of_not_wellFormed (s : State) {off : Offset} {w : Width} (h : accessWellFormed off w = false) :
    busRead s off w = { s with resp := .busError } := by
  simp [busRead, accessAllowed_eq_wellFormed, h]

theorem busWrite_of_not_wellFormed (s : State) {off : Offset} {w : Width} (h : accessWellFormed off w = false) (v : Word) :
    busWrite s off w v = { s with resp := .busError } := by
  simp [busWrite, accessAllowed_eq_wellFormed, h]

/-- An access of BUF is well formed when it is aligned. -/
theorem accessWellFormed_buffer {off : Offset} {a : Nat} {w : Width} (h : off.toNat = 0x01000000 + a) (ha : a % w.bytes = 0) :
    accessWellFormed off w = true := by
  have hlow : ¬off.toNat < 0x1000 := by omega
  have halign : off.toNat % w.bytes = 0 := by
    rw [h]
    cases w <;> simp only [Width.bytes] at ha ⊢ <;> omega
  simp [accessWellFormed, accessAligned, accessWidthAllowed, halign, hlow]

/-- An aligned access that begins in BUF ends in BUF. -/
theorem access_in_buf {s : State} {a : Nat} {w : Width} (ha : a < bufSize s) (hw : a % w.bytes = 0) : a + w.bytes ≤ bufSize s := by
  obtain ⟨k, hk⟩ := bufSize_dvd s
  cases w <;> simp only [Width.bytes] at hw ⊢ <;> omega

/-- Settles O41: the port answers a bus error before it looks at the target. -/
theorem badAccessIsABusError : Obligations.BadAccessIsABusError := by
  unfold Obligations.BadAccessIsABusError
  intro s off w v rest hn hbad hi
  rcases hi with hi | hi
  · rw [step_read hn hi, busRead_of_not_wellFormed _ hbad]
  · simp [step, stepOnce, hi, takeInput, hostAccess, hn, busWrite_of_not_wellFormed _ hbad]

/-! ### Reads (R43 to R47) -/

section
variable {s : State} {off : Offset} {w : Width}

theorem busRead_register {r : RegName} (hw : accessWellFormed off w = true) (ho : off.toNat = regOffset r) :
    busRead s off w =
      if s.eng = .busy ∧ hiddenWhileBusy r = true then readUnspecified s w else { s with resp := .data (regWord s r) } := by
  simp [busRead, accessAllowed_of_wellFormed hw, targetAt_register ho]

theorem busRead_buffer {a : Nat} (hw : accessWellFormed off w = true) (ho : off.toNat = 0x01000000 + a) (ha : a < bufSize s) :
    busRead s off w =
      if s.eng = .busy then readUnspecified s w else { s with resp := .data (busValue (bufRead s.buf a w.bytes)) } := by
  simp [busRead, accessAllowed_of_wellFormed hw, targetAt_buffer ho ha]

theorem busRead_reserved (hw : accessWellFormed off w = true) (hr : ReservedOffset s off) :
    busRead s off w = { s with resp := .data 0 } := by
  rw [busRead, accessAllowed_of_wellFormed hw, targetAt_reserved hr]
  rfl

end

/-- Settles O45: the registers hidden while BUSY are the ones the rule lists. -/
theorem readsWhileBusy : Obligations.ReadsWhileBusy := by
  unfold Obligations.ReadsWhileBusy
  intro s off w rest hb hn hi hw
  rw [step_read hn hi]
  refine ⟨fun r ho => ⟨fun hr => ?_, fun h1 h2 h3 h4 => ?_⟩, fun hlo hhi => ?_⟩
  · have hidden : hiddenWhileBusy r = true := by rcases hr with rfl | rfl | ⟨i, rfl⟩ | ⟨i, rfl⟩ <;> rfl
    rw [busRead_register hw ho, if_pos ⟨hb, hidden⟩]
    exact ⟨_, _, rfl⟩
  · have shown : hiddenWhileBusy r = false := by cases r <;> simp_all [hiddenWhileBusy]
    rw [busRead_register hw ho, if_neg (by rw [shown]; simp)]
    rfl
  · obtain ⟨a, ho⟩ := Nat.exists_eq_add_of_le hlo
    rw [busRead_buffer hw ho (by rw [ho] at hhi; exact Nat.lt_of_add_lt_add_left hhi), if_pos hb]
    exact ⟨_, _, rfl⟩

/-- What the port answers to a read while IDLE. -/
def idleAnswer (s : State) (off : Offset) (w : Width) : BusResponse :=
  if accessWellFormed off w = true then
    match targetAt s off with
    | .register r => .data (regWord s r)
    | .buffer a => .data (busValue (bufRead s.buf a w.bytes))
    | .reserved => .data 0
  else .busError

theorem busRead_of_idle {s : State} (he : s.eng = .idle) (off : Offset) (w : Width) :
    busRead s off w = { s with resp := idleAnswer s off w } := by
  unfold busRead idleAnswer
  rw [accessAllowed_eq_wellFormed]
  cases accessWellFormed off w with
  | false => rfl
  | true => cases targetAt s off <;> simp [he]

@[simp] theorem idleAnswer_answered (s : State) (rest : List HostInput) (a : BusResponse) (off : Offset) (w : Width) :
    idleAnswer (s.answered rest a) off w = idleAnswer s off w := by
  have ht : targetAt (s.answered rest a) off = targetAt s off := rfl
  simp only [idleAnswer, ht, regWord_answered]
  rfl

theorem busRead_inputs_of_idle {s : State} (he : s.eng = .idle) (rest : List HostInput) (off : Offset) (w : Width) :
    busRead { s with inputs := rest } off w = s.answered rest (idleAnswer s off w) := by
  rw [busRead_of_idle (s := { s with inputs := rest }) he, ← idleAnswer_answered s rest s.resp]
  rfl

theorem step_read_of_idle {s : State} {off : Offset} {w : Width} {rest : List HostInput} (he : s.eng = .idle)
    (hn : s.inReset = false) (hi : s.inputs = .read off w :: rest) : step s = .next (s.answered rest (idleAnswer s off w)) := by
  rw [step_read hn hi, busRead_inputs_of_idle he]

section
variable {s : State} {off : Offset} {w : Width} (hw : accessWellFormed off w = true)
include hw

theorem idleAnswer_register {r : RegName} (ho : off.toNat = regOffset r) : idleAnswer s off w = .data (regWord s r) := by
  simp only [idleAnswer, hw, targetAt_register ho, if_true]

theorem idleAnswer_buffer {a : Nat} (ho : off.toNat = 0x01000000 + a) (ha : a < bufSize s) :
    idleAnswer s off w = .data (busValue (bufRead s.buf a w.bytes)) := by
  simp only [idleAnswer, hw, targetAt_buffer ho ha, if_true]

end

/-- Byte `j` of a little-endian word. -/
theorem extract_fromLE32 (b : Bytes) {j : Nat} (hj : j < 4) : (fromLE32 b).extractLsb' (8 * j) 8 = byteAt b j := by
  apply BitVec.eq_of_getLsbD_eq
  intro i hi
  rw [BitVec.getLsbD_extractLsb', fromLE32_getLsbD b (by omega), show (8 * j + i) / 8 = j by omega,
    show (8 * j + i) % 8 = i by omega]
  simp [hi]

theorem width_bytes_le (w : Width) : w.bytes ≤ 4 := by cases w <;> decide

theorem width_bytes_pos (w : Width) : 0 < w.bytes := by cases w <;> decide

/-- The port's value of bytes of BUF has the lowest byte in bits [7:0] (R45). -/
theorem extract_busValue_bufRead (b : Buf) (a : Nat) {w : Width} {j : Nat} (hj : j < w.bytes) :
    (busValue (bufRead b a w.bytes)).extractLsb' (8 * j) 8 = bufByte b (a + j) := by
  rw [busValue, extract_fromLE32 _ (Nat.lt_of_lt_of_le hj (width_bytes_le w)), byteAt_bufRead _ _ _ hj]

/-- Settles O46: a read changes the answer and the counter of free values alone; while IDLE the answer depends on neither. -/
theorem readsHaveNoSideEffects : Obligations.ReadsHaveNoSideEffects := by
  unfold Obligations.ReadsHaveNoSideEffects
  intro s off w rest hn hi
  refine ⟨_, step_read hn hi, ?_, fun he => ?_, fun hw => ⟨fun hr => ?_, fun he => ?_⟩⟩
  · obtain ⟨r, k, h⟩ := busRead_cases { s with inputs := rest } off w
    exact ⟨r, k, h⟩
  · rw [busRead_inputs_of_idle he]
    refine ⟨rfl, fun rest' hrest => ?_⟩
    have hagain := step_read_of_idle (s := s.answered rest (idleAnswer s off w)) he hn hrest
    rw [idleAnswer_answered] at hagain
    exact hagain
  · rw [busRead_reserved (s := { s with inputs := rest }) hw hr]
  · rw [show (busRead { s with inputs := rest } off w).resp = idleAnswer s off w by rw [busRead_inputs_of_idle he]; rfl]
    refine ⟨fun r ho => idleAnswer_register hw ho, fun ho => idleAnswer_register (r := .ctrl) hw ho,
      fun ho => idleAnswer_register (r := .cmd) hw ho, fun ho => idleAnswer_register (r := .status) hw ho,
      fun ho => idleAnswer_register (r := .dstLen) hw ho, fun a ho ha => ?_⟩
    exact ⟨_, idleAnswer_buffer hw ho ha, fun j hj => extract_busValue_bufRead s.buf a hj⟩

/-- Settles O53: a read while IDLE answers what the register holds, and 0 where none is. -/
theorem registersReadTheirResetValues : Obligations.RegistersReadTheirResetValues := by
  unfold Obligations.RegistersReadTheirResetValues
  simp only [List.forall_mem_cons]
  exact ⟨rfl, rfl, rfl, rfl, rfl, rfl, rfl, rfl, rfl, rfl, rfl, rfl, rfl, rfl, rfl, rfl, rfl, rfl, rfl, rfl, rfl, rfl, nofun⟩

/-! ### Writes of the register page (R46, R47) -/

section
variable {s : State} {off : Offset} {w : Width}

theorem writeReg_operand {r : RegName} (hr : IsOperandReg r) (v : Word) :
    writeReg s r v = writeWhileIdle s (s.setOperand r v) := by
  cases r with
  | id | caps | ctrl | cmd | status | dstLen => exact absurd (by decide) hr
  | _ => rfl

theorem writeWhileIdle_of_busy (he : s.eng = .busy) (t : State) : writeWhileIdle s t = dropWrite s := if_pos he

theorem writeWhileIdle_of_idle (he : s.eng = .idle) (t : State) : writeWhileIdle s t = t :=
  if_neg (by rw [he]; decide)

theorem writeTarget_register {r : RegName} (ho : off.toNat = regOffset r) (v : Word) :
    writeTarget s off w v = writeReg s r v := by
  rw [writeTarget, targetAt_register ho]

theorem writeTarget_buffer {a : Nat} (ho : off.toNat = 0x01000000 + a) (ha : a < bufSize s) (v : Word) :
    writeTarget s off w v = writeWhileIdle s (s.memWrite a (busBytes w v)) := by
  rw [writeTarget, targetAt_buffer ho ha]
  rfl

theorem writeTarget_reserved (hr : ReservedOffset s off) (v : Word) : writeTarget s off w v = s := by
  rw [writeTarget, targetAt_reserved hr]

theorem writeTarget_operand_of_busy {r : RegName} (hb : s.eng = .busy) (hr : IsOperandReg r) (ho : off.toNat = regOffset r)
    (v : Word) : writeTarget s off w v = dropWrite s := by
  rw [writeTarget_register ho, writeReg_operand hr, writeWhileIdle_of_busy hb]

theorem writeTarget_buffer_of_busy (hb : s.eng = .busy) (hlo : 0x01000000 ≤ off.toNat)
    (hhi : off.toNat < 0x01000000 + bufSize s) (v : Word) : writeTarget s off w v = dropWrite s := by
  obtain ⟨a, ho⟩ := Nat.exists_eq_add_of_le hlo
  rw [writeTarget_buffer ho (by omega), writeWhileIdle_of_busy hb]

theorem writeTarget_buffer_of_idle {a : Nat} (he : s.eng = .idle) (ho : off.toNat = 0x01000000 + a) (ha : a < bufSize s)
    (v : Word) : writeTarget s off w v = s.memWrite a (busBytes w v) := by
  rw [writeTarget_buffer ho ha, writeWhileIdle_of_idle he]

theorem ignoreWrite_eq (s : State) : ignoreWrite s = { s with accessErr := s.accessErr || decide (s.eng = .busy) } := by
  unfold ignoreWrite
  rcases writeWhileIdle_cases s s with ⟨he, h⟩ | ⟨he, h⟩
  · rw [h, decide_eq_true he, Bool.or_true]
  · rw [h, decide_eq_false (by rw [he]; decide), Bool.or_false]

theorem writeCtrl_irqEn {v : Word} (hv : v.getLsbD 1 = false) : writeCtrl s v = { s with irqEn := v.getLsbD 0 } := by
  rw [writeCtrl, hv]
  rfl

theorem writeCtrl_softReset {v : Word} (hv : v.getLsbD 1 = true) : writeCtrl s v = softReset s := by
  rw [writeCtrl, hv]
  rfl

end

/-- Settles O44: a dropped write is `dropWrite`; CTRL without SOFT_RESET writes IRQ_EN. -/
theorem writesWhileBusyAreDropped : Obligations.WritesWhileBusyAreDropped := by
  unfold Obligations.WritesWhileBusyAreDropped
  intro s off w v rest hn hi hw
  rw [step_write hn hi hw]
  refine ⟨fun hb hwhere => ?_, fun ho hv => ?_⟩
  · have hdrop : writeTarget { s with inputs := rest } off w v = dropWrite { s with inputs := rest } := by
      rcases hwhere with ⟨r, ho, hr⟩ | ⟨hlo, hhi⟩
      · exact writeTarget_operand_of_busy (s := { s with inputs := rest }) hb hr ho v
      · exact writeTarget_buffer_of_busy (s := { s with inputs := rest }) hb hlo hhi v
    rw [hdrop]
    rfl
  · rw [writeTarget_register (r := .ctrl) ho, writeReg, writeCtrl_irqEn hv]
    exact ⟨_, rfl, rfl, BitVec.and_one_eq_setWidth_ofBool_getLsbD.symm⟩

/-- Settles O48: the write is `writeStatus`. -/
theorem statusWriteClearsOnes : Obligations.StatusWriteClearsOnes := by
  unfold Obligations.StatusWriteClearsOnes
  intro s v rest hn hi
  refine ⟨_, step_write hn hi (by decide), ?_⟩
  rw [writeTarget_register (r := .status) rfl]
  exact ⟨statusWord_writeStatus s v, rfl, rfl, rfl, rfl, rfl, rfl, rfl, rfl, rfl, rfl, rfl, rfl⟩

/-- Settles O50: the port's write and read of any operand register. -/
theorem hostWritesOperandRegisters : Obligations.HostWritesOperandRegisters := by
  unfold Obligations.HostWritesOperandRegisters
  intro s off r v hr ho he hn hi
  exact write_then_read_operand hr ho he hn hi

/-- Settles O6: the write is the acceptance of R61. -/
theorem cmdWriteIsAccepted : Obligations.CmdWriteIsAccepted := by
  unfold Obligations.CmdWriteIsAccepted
  intro s v rest he hn hi
  exact ⟨_, step_write_cmd_of_idle he hn hi, rfl, rfl, rfl, rfl, rfl, rfl, rfl, rfl, rfl, rfl, rfl, rfl, rfl, rfl, hn, rfl, rfl,
    rfl, rfl⟩

/-! ### The BUF window (R41, R45) -/

theorem busBytes_eq_map (w : Width) (v : Word) : busBytes w v = (List.range w.bytes).map fun i => v.extractLsb' (8 * i) 8 := by
  cases w <;> rfl

/-- Bytes of BUF inside the stored bytes of `v`, on the port. -/
theorem busValue_of_stored {s t : State} {v : Word} {a b n m : Nat}
    (h : BufStored s t a ((List.range n).map fun i => v.extractLsb' (8 * i) 8)) (hab : a ≤ b) (hbn : b + m ≤ a + n) :
    busValue (bufRead t.buf b m) = (v.extractLsb' (8 * (b - a)) (8 * m)).setWidth 32 := by
  rw [← busValue_extract]
  congr 1
  refine List.map_congr_left fun i hi => ?_
  rw [List.mem_range] at hi
  obtain ⟨hin, -⟩ := h
  have hbyte := hin (b - a + i) (by rw [List.length_map, List.length_range]; omega)
  rw [show a + (b - a + i) = b + i by omega] at hbyte
  rw [hbyte]
  simp [byteAt, show b - a + i < n by omega]

/-- A read, while IDLE, of bytes inside the stored bytes of `v` answers those bits of `v`. -/
theorem busRead_resp_of_stored {s t : State} {v : Word} {a b n : Nat} {r : Width} (he : t.eng = .idle)
    (h : BufStored s t a ((List.range n).map fun i => v.extractLsb' (8 * i) 8)) (hab : a ≤ b) (hbn : b + r.bytes ≤ a + n)
    (hb : b % r.bytes = 0) (hsize : b < bufSize t) :
    (busRead t (BitVec.ofNat 25 (0x01000000 + b)) r).resp =
      .data ((v.extractLsb' (8 * (b - a)) (8 * r.bytes)).setWidth 32) := by
  have hmax := bufSize_le t
  have hoff : (BitVec.ofNat 25 (0x01000000 + b)).toNat = 0x01000000 + b := by
    rw [BitVec.toNat_ofNat, Nat.mod_eq_of_lt (by omega)]
  rw [busRead_of_idle he, idleAnswer_buffer (accessWellFormed_buffer hoff hb) hoff hsize, busValue_of_stored h hab hbn]

/-- Settles O42: the write stores the bytes of `v`, and a read inside them is those bits of `v`. -/
theorem bufWindowIsLittleEndian : Obligations.BufWindowIsLittleEndian := by
  unfold Obligations.BufWindowIsLittleEndian
  intro s a off w v rest he hn hi ho ha hin
  have hpos := width_bytes_pos w
  have hstep := step_write hn hi (accessWellFormed_buffer ho ha)
  rw [writeTarget_buffer_of_idle (s := { s with inputs := rest }) he ho (Nat.lt_of_lt_of_le (by omega) hin),
    busBytes_eq_map] at hstep
  refine ⟨_, hstep, rfl, bufStored_bufWrite rfl, fun b r hab hbr hb => ?_⟩
  have hrpos := width_bytes_pos r
  exact busRead_resp_of_stored (s := s) he (bufStored_bufWrite rfl) hab hbr hb (show b < bufSize s by omega)

/-! ### ID, CAPS and the offsets where a write changes nothing (R22, R23, R27, R34, R41) -/

/-- A soft reset is the reset of the registers, after the aborted command's destination is forgotten. -/
theorem softReset_eq_resetRegisters (s : State) : ∃ u : State, softReset s = u.resetRegisters ∧ u.bufSel = s.bufSel ∧
    u.inReset = s.inReset ∧ u.inputs = s.inputs := by
  rcases softReset_cases s with h | ⟨i, -, -, r, -, h⟩
  · exact ⟨s, h, rfl, rfl, rfl⟩
  · exact ⟨s.memForget (clipRegion s r), h, rfl, rfl, rfl⟩

/-- What no host write changes: the size of BUF, `rst_n` and the pending inputs. -/
def HostKept (s t : State) : Prop := t.bufSel = s.bufSel ∧ t.inReset = s.inReset ∧ t.inputs = s.inputs

theorem writeCtrl_kept (s : State) (v : Word) : HostKept s (writeCtrl s v) := by
  unfold writeCtrl
  split
  · obtain ⟨u, h, hkept⟩ := softReset_eq_resetRegisters s
    rw [h]
    exact hkept
  · exact ⟨rfl, rfl, rfl⟩

theorem writeTarget_kept (s : State) (off : Offset) (w : Width) (v : Word) : HostKept s (writeTarget s off w v) := by
  rcases writeTarget_cases s off w v with ⟨-, h⟩ | ⟨-, h⟩ | ⟨-, h⟩ | ⟨-, h⟩ | ⟨-, -, h⟩ | ⟨-, -, h⟩ | ⟨r, -, -, h⟩ | ⟨a, -, -, h⟩
  case inr.inr.inl =>
    rw [h]
    exact writeCtrl_kept s v
  all_goals
    rw [h]
    exact ⟨rfl, rfl, rfl⟩

/-- A write is a bus error, or it acts on its target and is answered. -/
theorem busWrite_cases (s : State) (off : Offset) (w : Width) (v : Word) :
    busWrite s off w v = { s with resp := .busError } ∨
      (accessWellFormed off w = true ∧ busWrite s off w v = { writeTarget s off w v with resp := .written }) := by
  unfold busWrite
  rw [accessAllowed_eq_wellFormed]
  cases accessWellFormed off w with
  | false => exact .inl rfl
  | true => exact .inr ⟨rfl, rfl⟩

theorem busWrite_kept (s : State) (off : Offset) (w : Width) (v : Word) : HostKept s (busWrite s off w v) := by
  rcases busWrite_cases s off w v with h | ⟨-, h⟩
  · rw [h]
    exact ⟨rfl, rfl, rfl⟩
  · rw [h]
    exact writeTarget_kept s off w v

theorem busRead_kept (s : State) (off : Offset) (w : Width) : HostKept s (busRead s off w) := by
  obtain ⟨r, k, h⟩ := busRead_cases s off w
  rw [h]
  exact ⟨rfl, rfl, rfl⟩

theorem engineTurn_bufSel {s t : State} (h : engineTurn s = .next t) : t.bufSel = s.bufSel := by
  rcases engineTurn_cases h with ⟨-, rfl⟩ | ⟨-, ⟨i, -, hexec⟩ | ⟨r, -, rfl⟩⟩
  · rfl
  · obtain ⟨-, -, hsel, -⟩ := exec_completes hexec
    exact hsel
  · rfl

theorem step_bufSel {s t : State} (h : step s = .next t) : t.bufSel = s.bufSel := by
  rcases step_cases h with ⟨-, h⟩ | ⟨rest, -, h⟩ | ⟨off, w, rest, -, -, rfl⟩ | ⟨off, w, v, rest, -, -, rfl⟩ | ⟨rest, -, rfl⟩ |
    ⟨rest, -, rfl⟩
  · exact engineTurn_bufSel h
  · exact engineTurn_bufSel (s := { s with inputs := rest }) h
  · exact (busRead_kept _ off w).1
  · exact (busWrite_kept _ off w v).1
  · rfl
  · rfl

theorem capsFields (s : State) :
    2 ^ ((capsWord s).extractLsb' 0 5).toNat = bufSize s ∧ 12 ≤ ((capsWord s).extractLsb' 0 5).toNat ∧
      ((capsWord s).extractLsb' 0 5).toNat ≤ 24 ∧ (capsWord s).extractLsb' 5 4 = 0xF ∧ (capsWord s).extractLsb' 9 23 = 0 := by
  unfold capsWord bufSize
  generalize s.bufSel = k
  revert k
  decide

/-- Settles O40: CAPS shows BUF_LOG2, which no step changes; the ignored writes are `ignoreWrite`, and nothing lies at a reserved
offset. -/
theorem idAndCapsAreConstant : Obligations.IdAndCapsAreConstant := by
  unfold Obligations.IdAndCapsAreConstant
  refine ⟨fun s => ⟨rfl, capsFields s⟩, fun s t h => ⟨rfl, ?_⟩, fun s off w v rest hn hi hw => ⟨fun ho => ?_, fun hr => ?_⟩⟩
  · simp only [regWord, capsWord, step_bufSel h]
  · have hwrite : writeTarget { s with inputs := rest } off w v = ignoreWrite { s with inputs := rest } := by
      rcases ho with ho | ho | ho
      · exact writeTarget_register (r := .id) ho v
      · exact writeTarget_register (r := .caps) ho v
      · exact writeTarget_register (r := .dstLen) ho v
    rw [step_write hn hi hw, hwrite, ignoreWrite_eq]
  · rw [step_write hn hi hw, writeTarget_reserved (s := { s with inputs := rest }) hr]

/-! ### Accesses during reset (R134) -/

/-- A host access while `rst_n` is asserted stops the machine (log 14). -/
theorem step_access_inReset {s : State} (hr : s.inReset = true) (hacc : nextIsAccess s = true) :
    step s = .fault .accessDuringReset := by
  unfold nextIsAccess at hacc
  split at hacc
  · next hi => simp [step, stepOnce, hi, takeInput, hostAccess, hr]
  · next hi => simp [step, stepOnce, hi, takeInput, hostAccess, hr]
  · cases hacc

/-! ### Reset (70_reset_and_hazards.md R134 to R136) -/

theorem regWord_resetRegisters (s : State) {r : RegName} (hr : r ≠ .caps) :
    regWord s.resetRegisters r = regWord State.reset r := by
  cases r with
  | caps => exact absurd rfl hr
  | _ => rfl

/-- Outside the destination region of the aborted command a soft reset keeps BUF. -/
theorem bufByte_softReset (s : State) {a : Nat}
    (h : s.eng = .busy → ∀ i r, decode s.cmdl = .ok i → destRegion i s.snap.regs = some r → ¬r.has a) :
    bufByte (softReset s).buf a = bufByte s.buf a := by
  rcases softReset_cases s with hreset | ⟨i, hb, hd, r, hr, hreset⟩
  · rw [hreset]; rfl
  · rw [hreset]
    exact bufByte_memForget_out s (clipRegion s r) fun hin => h hb i r hd hr (has_of_clipRegion hin)

/-- Settles O51: the soft reset resets the registers and forgets the aborted command's destination inside BUF. -/
theorem softResetState : Obligations.SoftResetState := by
  unfold Obligations.SoftResetState
  intro s v rest hn hv hi
  refine ⟨_, step_write hn hi (by decide), rfl, ?_⟩
  rw [writeTarget_register (r := .ctrl) rfl, writeReg, writeCtrl_softReset hv]
  obtain ⟨u, hreset, hsel, -, hinputs⟩ := softReset_eq_resetRegisters { s with inputs := rest }
  refine ⟨?_, ?_, ?_, ?_, ?_, fun r hr => ?_, fun a ha => bufByte_softReset { s with inputs := rest } ha⟩
  all_goals rw [hreset]
  · exact hinputs
  · rfl
  · rfl
  · rfl
  · exact hsel
  · exact regWord_resetRegisters u hr

/-- Settles O52: what `rst_n` leaves, and the command taken after its release. -/
theorem hardwareResetState : Obligations.HardwareResetState := by
  unfold Obligations.HardwareResetState
  intro s rest hi
  refine ⟨hardReset { s with inputs := rest }, by simp [step, stepOnce, hi, takeInput], rfl, rfl, rfl, rfl, rfl,
    fun r hr => ?_, fun a => rfl, fun hacc => ?_, fun v rest' hrest => ?_⟩
  · cases r with
    | caps => exact absurd rfl hr
    | _ => rfl
  · exact step_access_inReset rfl hacc
  · have hrelease : step (hardReset { s with inputs := rest }) =
        .next (releaseReset { hardReset { s with inputs := rest } with inputs := .write 0x00C .word v :: rest' }) := by
      simp [step, stepOnce, hardReset, hrest, takeInput]
    exact ⟨_, _, hrelease, step_write_cmd_of_idle rfl rfl rfl, rfl, rfl⟩

/-! ### The engine's turn -/

theorem engineTurn_of_decode {s : State} {i : Instr} (hb : s.eng = .busy) (hd : decode s.cmdl = .ok i) :
    engineTurn s = exec i s := by
  simp [engineTurn, hb, hd]

theorem engineTurn_of_idle {s : State} (he : s.eng = .idle) : engineTurn s = .next s := by
  simp [engineTurn, he]

theorem step_of_no_inputs {s : State} (hi : s.inputs = []) : step s = engineTurn s := by
  simp [step, stepOnce, hi]

theorem step_engineTurn {s : State} {rest : List HostInput} (hi : s.inputs = .engineTurn :: rest) :
    step s = engineTurn { s with inputs := rest } := by
  simp [step, stepOnce, hi, takeInput]

/-- Settles O5: the engine's turn runs the command of CMDL, and `withFetchWord` puts the command's word there. -/
theorem stepRunsTheDecodedCommand : Obligations.StepRunsTheDecodedCommand := by
  unfold Obligations.StepRunsTheDecodedCommand
  refine ⟨fun s i hb hd => ⟨fun hi => ?_, fun rest hi => ?_⟩, fun s i => ?_⟩
  · rw [step_of_no_inputs hi, engineTurn_of_decode hb hd]
  · rw [step_engineTurn hi, engineTurn_of_decode (s := { s with inputs := rest }) hb hd]
  · have hword : (s.withFetchWord 32 (encode i).toNat).cmdl = encode i := by
      show BitVec.ofNat 32 ((encode i).toNat % 2 ^ 32) = encode i
      rw [Nat.mod_eq_of_lt (encode i).isLt, BitVec.ofNat_toNat, BitVec.setWidth_eq]
    rw [step_of_no_inputs rfl, engineTurn_of_decode rfl (by rw [hword, decode_encode])]

end Sys2Proof.Machine
end

section
/-! The whole machine (spec/10_state.md R17 to R19; spec/70_reset_and_hazards.md R134, R139): what every step keeps, where the
engine's state changes, and what holds along a run. -/

namespace Sys2Proof.Machine

/-! ### The inputs that act -/

/-- No engine is both BUSY and IDLE. -/
theorem eng_clash {e : Eng} {p : Prop} (hi : e = .idle) (hb : e = .busy) : p := nomatch hi.symm.trans hb

theorem offset_of_target_register {s : State} {off : Offset} {r : RegName} (h : targetAt s off = .register r) :
    off.toNat = regOffset r := by
  unfold targetAt at h
  split at h
  · split at h
    · next r' hr =>
      cases h
      exact (regOffset_of_regAt hr).symm
    · cases h
  · split at h <;> cases h

theorem offset_of_target_buffer {s : State} {off : Offset} {a : Nat} (h : targetAt s off = .buffer a) :
    off.toNat = 0x01000000 + a ∧ a < bufSize s := by
  unfold targetAt at h
  split at h
  · split at h <;> cases h
  · split at h
    · next hr =>
      injection h with h
      omega
    · cases h

/-- The register page takes words only (R43). -/
theorem width_of_register {off : Offset} {w : Width} {r : RegName} (hw : accessWellFormed off w = true)
    (ho : off.toNat = regOffset r) : w = .word := by
  have hlow := regOffset_lt r
  cases w with
  | word => rfl
  | _ => simp [accessWellFormed, accessWidthAllowed, ho, hlow] at hw

theorem nextWrites_of_target {s : State} {off : Offset} {w : Width} {v : Word} {r : RegName} {rest : List HostInput}
    (hi : s.inputs = .write off w v :: rest) (hw : accessWellFormed off w = true)
    (ht : targetAt { s with inputs := rest } off = .register r) : nextWrites s r v := by
  have ho := offset_of_target_register ht
  cases width_of_register hw ho
  exact ⟨off, rest, hi, ho⟩

/-- The engine's turn of a running command ends it. -/
theorem engineTurn_of_busy {s t : State} (hb : s.eng = .busy) (h : engineTurn s = .next t) : t.eng = .idle ∧ t.done = true := by
  rcases engineTurn_cases h with ⟨he, -⟩ | ⟨-, ⟨i, -, hexec⟩ | ⟨r, -, rfl⟩⟩
  · rw [hb] at he
    cases he
  · obtain ⟨heng, hdone, -⟩ := exec_completes hexec
    exact ⟨heng, hdone⟩
  · exact ⟨rfl, rfl⟩

theorem engineTurn_of_idle_eq {s t : State} (he : s.eng = .idle) (h : engineTurn s = .next t) : t = s := by
  rw [engineTurn_of_idle he, Host.Outcome.next.injEq] at h
  exact h.symm

theorem exists_engineTurn (s : State) : ∃ t, engineTurn s = .next t := by
  unfold engineTurn
  split
  · split
    · next i _ => exact exists_exec i s
    · exact ⟨_, rfl⟩
  · exact ⟨_, rfl⟩

/-! ### Runs -/

theorem core_run_succ {M : Host.Core} {s t : M.State} (h : M.step s = .next t) (k : Nat) : M.run (k + 1) s = M.run k t := by
  rw [Host.Core.run, h]

/-- A run of `k + 1` steps that goes on begins with a step that goes on. -/
theorem core_run_succ_next {M : Host.Core} {s t : M.State} {k : Nat} (h : M.run (k + 1) s = .next t) :
    ∃ u, M.step s = .next u ∧ M.run k u = .next t := by
  rw [Host.Core.run] at h
  split at h
  · next u hu => exact ⟨u, hu, h⟩
  · cases h
  · cases h

theorem run_succ {s t : State} (h : step s = .next t) (k : Nat) : Sys2Proof.core.run (k + 1) s = Sys2Proof.core.run k t :=
  core_run_succ (M := Sys2Proof.core) h k

theorem run_succ_next {s t : State} {k : Nat} (h : Sys2Proof.core.run (k + 1) s = .next t) :
    ∃ u, step s = .next u ∧ Sys2Proof.core.run k u = .next t := core_run_succ_next (M := Sys2Proof.core) h

/-- Settles O57, by induction on the number of steps. -/
theorem engineStartsNothingByItself : Obligations.EngineStartsNothingByItself := by
  unfold Obligations.EngineStartsNothingByItself
  refine ⟨fun s rest he hi => ?_, fun k s he hi => ?_⟩
  · rw [step_engineTurn hi, engineTurn_of_idle (s := { s with inputs := rest }) he]
  · have hstep : step s = .next s := (step_of_no_inputs hi).trans (engineTurn_of_idle he)
    induction k with
    | zero => rfl
    | succ k ih => exact (run_succ hstep k).trans ih

/-- Settles O58, by the next input: the engine's turn always goes on, and only `hostAccess` stops. -/
theorem stepStopsOnlyOnAccessDuringReset : Obligations.StepStopsOnlyOnAccessDuringReset := by
  unfold Obligations.StepStopsOnlyOnAccessDuringReset
  intro s
  by_cases hstop : s.inReset = true ∧ nextIsAccess s = true
  · exact .inr ⟨step_access_inReset hstop.1 hstop.2, hstop⟩
  · refine .inl ?_
    cases hi : s.inputs with
    | nil =>
      rw [step_of_no_inputs hi]
      exact exists_engineTurn s
    | cons i rest =>
      have running (hacc : nextIsAccess s = true) : s.inReset = false := by
        cases hr : s.inReset with
        | false => rfl
        | true => exact absurd ⟨hr, hacc⟩ hstop
      cases i with
      | engineTurn =>
        rw [step_engineTurn hi]
        exact exists_engineTurn _
      | assertReset => exact ⟨_, by simp only [step, stepOnce, hi, takeInput]; rfl⟩
      | releaseReset => exact ⟨_, by simp only [step, stepOnce, hi, takeInput]; rfl⟩
      | read off w => exact ⟨_, step_read (running (by rw [nextIsAccess, hi])) hi⟩
      | write off w v =>
        have hn := running (by rw [nextIsAccess, hi])
        exact ⟨busWrite { s with inputs := rest } off w v, by simp [step, stepOnce, hi, takeInput, hostAccess, hn]⟩

/-! ### Where the engine's state changes (R18) -/

theorem writeCtrl_idle_of_busy {s : State} {v : Word} (hb : s.eng = .busy) (h : (writeCtrl s v).eng = .idle) :
    v.getLsbD 1 = true := by
  cases hv : v.getLsbD 1 with
  | true => rfl
  | false =>
    rw [writeCtrl_irqEn hv] at h
    exact absurd (hb.symm.trans h) nofun

theorem writeCtrl_of_idle_eng {s : State} (v : Word) (he : s.eng = .idle) : (writeCtrl s v).eng = .idle := by
  unfold writeCtrl
  split
  · rw [softReset_of_idle he]
    rfl
  · exact he

/-- A write makes an IDLE engine BUSY only at CMD, with the word in CMD. -/
theorem writeTarget_starts {s : State} {off : Offset} {w : Width} {v : Word} (he : s.eng = .idle)
    (h : (writeTarget s off w v).eng = .busy) :
    targetAt s off = .register .cmd ∧ (writeTarget s off w v).cmd = v := by
  rcases writeTarget_cases s off w v with ⟨hb, -⟩ | ⟨-, hw⟩ | ⟨-, hw⟩ | ⟨-, hw⟩ | ⟨-, hb, -⟩ | ⟨ht, -, hw⟩ | ⟨r, -, -, hw⟩ |
    ⟨a, -, -, hw⟩
  · exact eng_clash he hb
  · rw [hw] at h
    exact eng_clash he h
  · rw [hw] at h
    exact eng_clash (writeCtrl_of_idle_eng v he) h
  · rw [hw] at h
    exact eng_clash he h
  · exact eng_clash he hb
  · rw [hw]
    exact ⟨ht, rfl⟩
  · rw [hw] at h
    exact eng_clash he h
  · rw [hw] at h
    exact eng_clash he h

/-- A write makes a BUSY engine IDLE only at CTRL, with SOFT_RESET set. -/
theorem writeTarget_stops {s : State} {off : Offset} {w : Width} {v : Word} (hb : s.eng = .busy)
    (h : (writeTarget s off w v).eng = .idle) : targetAt s off = .register .ctrl ∧ v.getLsbD 1 = true := by
  rcases writeTarget_cases s off w v with ⟨-, hw⟩ | ⟨-, hw⟩ | ⟨ht, hw⟩ | ⟨-, hw⟩ | ⟨-, -, hw⟩ | ⟨-, he, -⟩ | ⟨r, -, he, -⟩ |
    ⟨a, -, he, -⟩
  · rw [hw] at h
    exact eng_clash h hb
  · rw [hw] at h
    exact eng_clash h hb
  · rw [hw] at h
    exact ⟨ht, writeCtrl_idle_of_busy hb h⟩
  · rw [hw] at h
    exact eng_clash h hb
  · rw [hw] at h
    exact eng_clash h hb
  · exact eng_clash he hb
  · exact eng_clash he hb
  · exact eng_clash he hb

theorem engineMoves_of_no_inputs {s : State} (h : s.inputs = []) : engineMoves s = true := by rw [engineMoves, h]

theorem engineMoves_of_engineTurn {s : State} {rest : List HostInput} (h : s.inputs = .engineTurn :: rest) :
    engineMoves s = true := by rw [engineMoves, h]

theorem busRead_eng (s : State) (off : Offset) (w : Width) : (busRead s off w).eng = s.eng := by
  obtain ⟨r, k, h⟩ := busRead_cases s off w
  rw [h]

/-- Settles O56, by the input that acts. -/
theorem engineStateChangesOnlyAsR18Says : Obligations.EngineStateChangesOnlyAsR18Says := by
  unfold Obligations.EngineStateChangesOnlyAsR18Says
  intro s t h
  rcases step_cases h with ⟨hi, h⟩ | ⟨rest, hi, h⟩ | ⟨off, w, rest, hi, hn, rfl⟩ | ⟨off, w, v, rest, hi, hn, rfl⟩ |
    ⟨rest, hi, rfl⟩ | ⟨rest, hi, rfl⟩
  · refine ⟨fun he hb => ?_, fun hb _ => .inl ⟨engineMoves_of_no_inputs hi, (engineTurn_of_busy hb h).2⟩⟩
    rw [engineTurn_of_idle_eq he h] at hb
    exact eng_clash he hb
  · refine ⟨fun he hb => ?_, fun hb _ => .inl ⟨engineMoves_of_engineTurn hi,
      (engineTurn_of_busy (s := { s with inputs := rest }) hb h).2⟩⟩
    rw [engineTurn_of_idle_eq (s := { s with inputs := rest }) he h] at hb
    exact eng_clash he hb
  · rw [busRead_eng]
    exact ⟨fun he hb => eng_clash he hb, fun hb he => eng_clash he hb⟩
  · rcases busWrite_cases { s with inputs := rest } off w v with h | ⟨hw, h⟩
    · rw [h]
      exact ⟨fun he hb => eng_clash he hb, fun hb he => eng_clash he hb⟩
    · rw [h]
      refine ⟨fun he hb => ?_, fun hb he => .inr (.inl ?_)⟩
      · obtain ⟨ht, hcmd⟩ := writeTarget_starts (s := { s with inputs := rest }) he hb
        exact ⟨v, nextWrites_of_target hi hw ht, hcmd⟩
      · obtain ⟨ht, hv⟩ := writeTarget_stops (s := { s with inputs := rest }) hb he
        exact ⟨v, nextWrites_of_target hi hw ht, hv⟩
  · exact ⟨fun _ hb => eng_clash rfl hb, fun _ _ => .inr (.inr ⟨rest, hi⟩)⟩
  · exact ⟨fun he hb => eng_clash he hb, fun hb he => eng_clash he hb⟩

/-! ### Protocol errors (R132) -/

/-- Neither OVERRUN nor ACCESS_ERR is set. -/
def Clean (s : State) : Prop := s.overrun = false ∧ s.accessErr = false

theorem clean_resetRegisters (s : State) : Clean s.resetRegisters := ⟨rfl, rfl⟩

theorem clean_writeCtrl {s : State} (v : Word) (h : Clean s) : Clean (writeCtrl s v) := by
  unfold writeCtrl
  split
  · obtain ⟨u, hu, -⟩ := softReset_eq_resetRegisters s
    rw [hu]
    exact clean_resetRegisters u
  · exact h

theorem clean_writeStatus {s : State} (v : Word) (h : Clean s) : Clean (s.writeStatus v) := by
  obtain ⟨ho, ha⟩ := h
  simp [Clean, State.writeStatus, ho, ha]

theorem clean_writeTarget {s : State} (off : Offset) (w : Width) (v : Word) (he : s.eng = .idle) (h : Clean s) :
    Clean (writeTarget s off w v) := by
  rcases writeTarget_cases s off w v with ⟨hb, -⟩ | ⟨-, hw⟩ | ⟨-, hw⟩ | ⟨-, hw⟩ | ⟨-, hb, -⟩ | ⟨-, -, hw⟩ | ⟨r, -, -, hw⟩ |
    ⟨a, -, -, hw⟩
  · exact eng_clash he hb
  · rw [hw]
    exact h
  · rw [hw]
    exact clean_writeCtrl v h
  · rw [hw]
    exact clean_writeStatus v h
  · exact eng_clash he hb
  · rw [hw]
    exact h
  · rw [hw]
    exact h
  · rw [hw]
    exact h

theorem clean_engineTurn {s t : State} (h : engineTurn s = .next t) (hc : Clean s) : Clean t := by
  rcases engineTurn_cases h with ⟨-, rfl⟩ | ⟨-, ⟨i, -, hexec⟩ | ⟨r, -, rfl⟩⟩
  · exact hc
  · obtain ⟨-, -, -, -, -, hover, hacc, -⟩ := exec_completes hexec
    exact ⟨hover.trans hc.1, hacc.trans hc.2⟩
  · exact hc

/-- A step of a host that writes only while IDLE sets neither flag. -/
theorem clean_step {s t : State} (h : step s = .next t) (hhost : nextIsWrite s = true → s.eng = .idle) (hc : Clean s) :
    Clean t := by
  rcases step_cases h with ⟨-, h⟩ | ⟨rest, -, h⟩ | ⟨off, w, rest, -, -, rfl⟩ | ⟨off, w, v, rest, hi, -, rfl⟩ | ⟨rest, -, rfl⟩ |
    ⟨rest, -, rfl⟩
  · exact clean_engineTurn h hc
  · exact clean_engineTurn (s := { s with inputs := rest }) h hc
  · obtain ⟨r, k, hread⟩ := busRead_cases { s with inputs := rest } off w
    rw [hread]
    exact hc
  · have he : s.eng = .idle := hhost (by rw [nextIsWrite, hi])
    rcases busWrite_cases { s with inputs := rest } off w v with hwrite | ⟨-, hwrite⟩
    · rw [hwrite]
      exact hc
    · rw [hwrite]
      exact clean_writeTarget (s := { s with inputs := rest }) off w v he hc
  · exact ⟨rfl, rfl⟩
  · exact hc

/-- Settles O59, by induction on the number of steps. -/
theorem cleanHostSeesNoProtocolError : Obligations.CleanHostSeesNoProtocolError := by
  unfold Obligations.CleanHostSeesNoProtocolError
  intro k
  induction k with
  | zero =>
    intro s t ho ha _ h
    injection h with h
    rw [← h]
    exact ⟨ho, ha⟩
  | succ k ih =>
    intro s t ho ha hhost h
    obtain ⟨u, hstep, hrun⟩ := run_succ_next h
    obtain ⟨ho', ha'⟩ := clean_step hstep (hhost 0 (Nat.succ_pos k) s rfl) ⟨ho, ha⟩
    refine ih u t ho' ha' (fun j hj x hx => hhost (j + 1) (Nat.succ_lt_succ hj) x ?_) hrun
    exact (run_succ hstep j).trans hx

/-! ### An accepted command ends (R139) -/

/-- A step out of reset from BUSY ends the command, or takes one pending input and leaves it running out of reset. -/
theorem step_of_busy {s t : State} (hb : s.eng = .busy) (hn : s.inReset = false) (h : step s = .next t) :
    t.eng = .idle ∨ (t.eng = .busy ∧ t.inReset = false ∧ ∃ i, s.inputs = i :: t.inputs) := by
  have running {u : State} {i : HostInput} (hi : s.inputs = i :: u.inputs) (hr : u.inReset = false) :
      u.eng = .idle ∨ (u.eng = .busy ∧ u.inReset = false ∧ ∃ i, s.inputs = i :: u.inputs) := by
    cases he : u.eng with
    | idle => exact .inl rfl
    | busy => exact .inr ⟨rfl, hr, i, hi⟩
  rcases step_cases h with ⟨-, h⟩ | ⟨rest, -, h⟩ | ⟨off, w, rest, hi, -, rfl⟩ | ⟨off, w, v, rest, hi, -, rfl⟩ | ⟨rest, -, rfl⟩ |
    ⟨rest, hi, rfl⟩
  · exact .inl (engineTurn_of_busy hb h).1
  · exact .inl (engineTurn_of_busy (s := { s with inputs := rest }) hb h).1
  · obtain ⟨-, hr, hinputs⟩ := busRead_kept { s with inputs := rest } off w
    exact running (hi.trans (congrArg _ hinputs.symm)) (hr.trans hn)
  · obtain ⟨-, hr, hinputs⟩ := busWrite_kept { s with inputs := rest } off w v
    exact running (hi.trans (congrArg _ hinputs.symm)) (hr.trans hn)
  · exact .inl rfl
  · exact running hi rfl

theorem exists_step {s : State} (hn : s.inReset = false) : ∃ t, step s = .next t := by
  rcases stepStopsOnlyOnAccessDuringReset s with h | ⟨-, hr, -⟩
  · exact h
  · rw [hn] at hr
    cases hr

/-- Settles O60, by induction on the pending inputs. -/
theorem acceptedCommandEnds : Obligations.AcceptedCommandEnds := by
  unfold Obligations.AcceptedCommandEnds
  intro s hb hn
  generalize hl : s.inputs = l
  induction l generalizing s with
  | nil =>
    obtain ⟨t, hstep⟩ := exists_step hn
    rcases step_of_busy hb hn hstep with he | ⟨-, -, i, hi⟩
    · exact ⟨1, Nat.le_refl 1, t, run_succ hstep 0, he⟩
    · rw [hl] at hi
      cases hi
  | cons i rest ih =>
    obtain ⟨t, hstep⟩ := exists_step hn
    rcases step_of_busy hb hn hstep with he | ⟨hb', hn', j, hi⟩
    · exact ⟨1, Nat.le_add_left 1 _, t, run_succ hstep 0, he⟩
    · rw [hl, List.cons.injEq] at hi
      obtain ⟨k, hk, u, hrun, he⟩ := ih t hb' hn' hi.2.symm
      exact ⟨k + 1, Nat.succ_le_succ hk, u, (run_succ hstep k).trans hrun, he⟩

/-! ### The invariant -/

/-- Settles O54: BUF is empty, the engine is IDLE and no error is shown. -/
theorem invHoldsAtReset : Obligations.InvHoldsAtReset :=
  ⟨⟨rfl, rfl⟩, ⟨rfl, rfl⟩, nofun, nofun, fun h => absurd rfl h⟩

theorem bufOk_bufWrite {n a : Nat} {b : Buf} {v : Bytes} (h : BufOk n b) (hv : a + v.length ≤ n) : BufOk n (bufWrite b a v) :=
  ⟨bufWrite_wf a v h.1, bufWrite_below v hv h.2⟩

theorem bufOk_empty (n e : Nat) : BufOk n ⟨[], e⟩ := ⟨rfl, rfl⟩

/-- A command writes BUF only inside BUF_SIZE. -/
theorem exec_buf_inRange {i : Instr} {s t : State} (h : exec i s = .next t) :
    t.buf = s.buf ∨ ∃ r v, InRange s r ∧ v.length ≤ r.len ∧ t.buf = bufWrite s.buf r.addr v := by
  rcases exec_cases h with ⟨-, rfl⟩ | ⟨he, -⟩
  · exact .inl rfl
  · obtain ⟨u, e, n, hu, rfl, -⟩ := exec_eq_complete h
    rcases hu.buf with hbuf | ⟨r, v, hr, hlen, hbuf⟩
    · exact .inl hbuf
    · exact .inr ⟨r, v, inRange_destRegion he hr, hlen, hbuf⟩

theorem bufOk_exec {i : Instr} {s t : State} (h : exec i s = .next t) (hb : BufOk (bufSize s) s.buf) :
    BufOk (bufSize s) t.buf := by
  rcases exec_buf_inRange h with hbuf | ⟨r, v, hr, hlen, hbuf⟩
  · rwa [hbuf]
  · rw [hbuf]
    exact bufOk_bufWrite hb (Nat.le_trans (Nat.add_le_add_left hlen _) hr)

theorem exec_dstLen_of_error {i : Instr} {s t : State} (h : exec i s = .next t) (he : t.errCode ≠ .none) : t.dstLen = 0 := by
  obtain ⟨u, e, n, -, rfl, herr⟩ := exec_eq_complete h
  obtain ⟨rfl, -⟩ := herr he
  rfl

theorem resetOk_of_released {s : State} (hn : s.inReset = false) : ResetOk s := fun hr => nomatch hn.symm.trans hr

/-- Out of reset and IDLE, the invariant is about BUF and DST_LEN only. -/
theorem inv_of_idle {s : State} (he : s.eng = .idle) (hn : s.inReset = false) (hbuf : BufOk (bufSize s) s.buf)
    (hsnap : BufOk (bufSize s) s.snap.buf) (herr : s.errCode ≠ .none → s.dstLen = 0) : Inv s :=
  ⟨hbuf, hsnap, fun hb => eng_clash he hb, resetOk_of_released hn, herr⟩

theorem inv_resetRegisters {s : State} (hn : s.inReset = false) (hbuf : BufOk (bufSize s) s.buf) : Inv s.resetRegisters :=
  inv_of_idle rfl hn hbuf (bufOk_empty _ _) fun h => absurd rfl h

theorem Inv.not_inReset_of_busy {s : State} (h : Inv s) (hb : s.eng = .busy) : s.inReset = false := by
  obtain ⟨-, -, -, hreset, -⟩ := h
  cases hr : s.inReset with
  | false => rfl
  | true => exact eng_clash (hreset hr).1 hb

/-- The forgotten destination of an aborted command lies inside BUF. -/
theorem bufOk_memForget_clip {s : State} (r : Region) (h : BufOk (bufSize s) s.buf) :
    BufOk (bufSize s) (s.memForget (clipRegion s r)).buf := by
  by_cases hr : r.addr ≤ bufSize s
  · refine bufOk_bufWrite h ?_
    rw [unspecifiedBytes_length]
    exact Nat.le_trans (clipRegion_le s r) (by omega)
  · have hzero : (clipRegion s r).len = 0 := by
      simp only [clipRegion]
      omega
    rw [State.memForget_buf, hzero]
    exact h

theorem inv_softReset {s : State} (h : Inv s) (hn : s.inReset = false) : Inv (softReset s) := by
  obtain ⟨hbuf, -⟩ := h
  rcases softReset_cases s with hreset | ⟨i, -, -, r, -, hreset⟩
  · rw [hreset]
    exact inv_resetRegisters hn hbuf
  · rw [hreset]
    exact inv_resetRegisters (s := s.memForget (clipRegion s r)) hn (bufOk_memForget_clip r hbuf)

theorem inv_engineTurn {s t : State} (h : Inv s) (hturn : engineTurn s = .next t) : Inv t := by
  obtain ⟨hbuf, hsnap, -, -, -⟩ := id h
  rcases engineTurn_cases hturn with ⟨-, rfl⟩ | ⟨hb, ⟨i, -, hexec⟩ | ⟨r, -, rfl⟩⟩
  · exact h
  · obtain ⟨heng, -, hsel, -, -, -, -, -, hsnapEq, hreset, -⟩ := exec_completes hexec
    have hsize : bufSize t = bufSize s := by rw [bufSize, bufSize, hsel]
    refine inv_of_idle heng (hreset.trans (h.not_inReset_of_busy hb)) ?_ ?_ (exec_dstLen_of_error hexec)
    · rw [hsize]
      exact bufOk_exec hexec hbuf
    · rw [hsize, hsnapEq]
      exact hsnap
  · exact inv_of_idle rfl (h.not_inReset_of_busy hb) hbuf hsnap fun _ => rfl

theorem inv_accept {s : State} (v : Word) (h : Inv s) (hn : s.inReset = false) : Inv (s.accept v) := by
  obtain ⟨hbuf, -⟩ := h
  exact ⟨hbuf, hbuf, fun _ => ⟨rfl, rfl, rfl, rfl, rfl, rfl⟩, resetOk_of_released hn, fun he => absurd rfl he⟩

theorem inv_writeStatus {s : State} (v : Word) (h : Inv s) (hn : s.inReset = false) : Inv (s.writeStatus v) := by
  obtain ⟨hbuf, hsnap, hbusy, -, herr⟩ := h
  refine ⟨hbuf, hsnap, fun hb => ?_, resetOk_of_released hn, herr⟩
  obtain ⟨hdone, hwarn, hrest⟩ := hbusy hb
  exact ⟨by simp [State.writeStatus, hdone], by simp [State.writeStatus, hwarn], hrest⟩

theorem inv_writeCtrl {s : State} (v : Word) (h : Inv s) (hn : s.inReset = false) : Inv (writeCtrl s v) := by
  unfold writeCtrl
  split
  · exact inv_softReset h hn
  · obtain ⟨hbuf, hsnap, hbusy, -, herr⟩ := h
    exact ⟨hbuf, hsnap, hbusy, resetOk_of_released hn, herr⟩

theorem aligned_of_buffer {off : Offset} {w : Width} {a : Nat} (hw : accessWellFormed off w = true)
    (ho : off.toNat = 0x01000000 + a) : a % w.bytes = 0 := by
  have halign : off.toNat % w.bytes = 0 := by
    simp only [accessWellFormed, accessAligned, Bool.and_eq_true, beq_iff_eq] at hw
    exact hw.1
  rw [ho] at halign
  cases w <;> simp only [Width.bytes] at halign ⊢ <;> omega

/-- A taken write of the BUF window ends inside BUF. -/
theorem bufOk_busBytes {s : State} {off : Offset} {w : Width} {a : Nat} (v : Word) (hw : accessWellFormed off w = true)
    (ht : targetAt s off = .buffer a) (h : BufOk (bufSize s) s.buf) : BufOk (bufSize s) (bufWrite s.buf a (busBytes w v)) := by
  obtain ⟨ho, ha⟩ := offset_of_target_buffer ht
  refine bufOk_bufWrite h ?_
  rw [busBytes_eq_map, List.length_map, List.length_range]
  exact access_in_buf ha (aligned_of_buffer hw ho)

theorem inv_writeTarget {s : State} {off : Offset} {w : Width} (v : Word) (hw : accessWellFormed off w = true) (h : Inv s)
    (hn : s.inReset = false) : Inv (writeTarget s off w v) := by
  obtain ⟨hbuf, hsnap, hbusy, -, herr⟩ := id h
  rcases writeTarget_cases s off w v with ⟨-, ht⟩ | ⟨-, ht⟩ | ⟨-, ht⟩ | ⟨-, ht⟩ | ⟨-, -, ht⟩ | ⟨-, -, ht⟩ | ⟨r, -, he, ht⟩ |
    ⟨a, hat, he, ht⟩
  all_goals rw [ht]
  · exact ⟨hbuf, hsnap, hbusy, resetOk_of_released hn, herr⟩
  · exact h
  · exact inv_writeCtrl v h hn
  · exact inv_writeStatus v h hn
  · exact ⟨hbuf, hsnap, hbusy, resetOk_of_released hn, herr⟩
  · exact inv_accept v h hn
  · exact inv_of_idle he hn hbuf hsnap herr
  · exact inv_of_idle he hn (bufOk_busBytes v hw hat hbuf) hsnap herr

theorem statusWord_hardReset (s : State) : statusWord (hardReset s) = 0 :=
  calc statusWord (hardReset s) = statusWord State.reset := rfl
    _ = 0 := by decide

theorem inv_hardReset (s : State) : Inv (hardReset s) :=
  ⟨bufOk_empty _ _, bufOk_empty _ _, nofun, fun _ => ⟨rfl, rfl, rfl, rfl, rfl, statusWord_hardReset s⟩, fun h => absurd rfl h⟩

theorem inv_releaseReset {s : State} (h : Inv s) : Inv (releaseReset s) := by
  obtain ⟨hbuf, hsnap, hbusy, -, herr⟩ := h
  exact ⟨hbuf, hsnap, hbusy, nofun, herr⟩

/-- Settles O55, by the input that acts. -/
theorem stepKeepsInv : Obligations.StepKeepsInv := by
  unfold Obligations.StepKeepsInv
  intro s t h hstep
  rcases step_cases hstep with ⟨-, hturn⟩ | ⟨rest, -, hturn⟩ | ⟨off, w, rest, -, -, rfl⟩ | ⟨off, w, v, rest, -, hn, rfl⟩ |
    ⟨rest, -, rfl⟩ | ⟨rest, -, rfl⟩
  · exact inv_engineTurn h hturn
  · exact inv_engineTurn (s := { s with inputs := rest }) h hturn
  · obtain ⟨r, k, hread⟩ := busRead_cases { s with inputs := rest } off w
    rw [hread]
    exact h
  · rcases busWrite_cases { s with inputs := rest } off w v with hwrite | ⟨hw, hwrite⟩
    · rw [hwrite]
      exact h
    · rw [hwrite]
      exact inv_writeTarget (s := { s with inputs := rest }) v hw h hn
  · exact inv_hardReset _
  · exact inv_releaseReset (s := { s with inputs := rest }) h

end Sys2Proof.Machine
end
